-- ==== Sys2Proof/Word.lean ====
section
/-! DEFINITION. The words of SWSPI: the 64-bit command word (R70), the 16-bit transferred word (R6 WORD_BITS,
R100) and the 8-bit line state (R21, R52). Bit 0 is the least significant bit of each (R7). -/

namespace Sys2Proof

/-- One 64-bit command word of the command port (R70). -/
abbrev Cmd := BitVec 64

/-- One transferred word: WORD_BITS = 16 (R6), also the width of the AD9833 control image (R27). -/
abbrev Word := BitVec 16

/-- The 8-bit line state every adapter request carries; the masks have the same width (R21, R52). -/
abbrev LineState := BitVec 8

end Sys2Proof
end

