-- ==== Sys2Proof/Config.lean ====
section
/-! DEFINITION. The types of the operands (channel, timing profile, waveform mode) and the configuration record of
R6. The configuration is what R39 calls a parameter of the model: it stands in State as plain data, no step changes
it, and a statement about every state is a statement about every configuration (log 1). The default values are in
Machine/Params.lean. -/

namespace Sys2Proof

/-- R6 N_CS, R10 ChipSelectChannel: "enum {0,1,2}"; the value 3 does not exist (R29). -/
inductive Chan
  | cs0
  | cs1
  | cs2
  deriving DecidableEq, Repr

/-- R9: a timing profile `(CPOL, CPHA, LSBF)`. -/
structure Profile where
  /-- R9: true = the clock idles high. -/
  cpol : Bool
  /-- R9: false = data is sampled on the first clock edge after idle, true = on the second. -/
  cpha : Bool
  /-- R9: false = MSB_FIRST, true = LSB_FIRST. -/
  lsbf : Bool
  deriving DecidableEq, Repr

/-- R76, R135: the five waveform modes `MODE3` selects. -/
inductive Mode
  | sine
  | triangle
  | squareHalf
  | squareFull
  | off
  deriving DecidableEq, Repr

/-- R27: the named one-bit fields of the AD9833 control register image. -/
inductive CtrlField
  | b28
  | hlb
  | fselect
  | pselect
  | reset
  | sleep1
  | sleep12
  | opbiten
  | div2
  | mode
  deriving DecidableEq, Repr

/-- R27: the bit position of each named field of `AD_CTRL` (decision D16: configuration, not the source's). -/
structure CtrlLayout where
  b28 : Fin 16
  hlb : Fin 16
  fselect : Fin 16
  pselect : Fin 16
  reset : Fin 16
  sleep1 : Fin 16
  sleep12 : Fin 16
  opbiten : Fin 16
  div2 : Fin 16
  mode : Fin 16
  deriving DecidableEq, Repr

/-- R135: the mode patterns and their mask (decision D18). `ModeBits(SINE) = 0` is the source's and no parameter. -/
structure ModePatterns where
  triangle : Word
  squareHalf : Word
  squareFull : Word
  off : Word
  mask : Word
  deriving DecidableEq, Repr

/-- R6: the implementation parameters. `WORD_BITS` and `N_CS`, each "not a free parameter" in
R6, are no fields (log 2). -/
structure Config where
  /-- `MCLK_HZ`: AD9833 master clock in hertz, a positive integer (`Config.wf`). -/
  mclkHz : Nat
  /-- `T_BIT_US`: delay after every line write of a transfer. -/
  tBitUs : Nat
  /-- `T_SETTLE_US`: delay after idle configuration. -/
  tSettleUs : Nat
  /-- `T_RESET_US`: hold of the AD9833 reset bit. -/
  tResetUs : Nat
  /-- `CS0_BIT` .. `SDO_BIT`: positions of the five lines in the 8-bit line state. -/
  cs0Bit : Fin 8
  cs1Bit : Fin 8
  cs2Bit : Fin 8
  sckBit : Fin 8
  sdoBit : Fin 8
  /-- `DIR_MASK`: direction mask of every adapter request. -/
  dirMask : LineState
  /-- `EN_MASK`: enable mask of `configureOutput`. -/
  enMask : LineState
  /-- `SDO_IDLE`: idle level of the data-out line. -/
  sdoIdle : Bool
  /-- `MCP_CMD_BYTE`. -/
  mcpCmdByte : BitVec 8
  /-- `AD_PROFILE`. -/
  adProfile : Profile
  /-- `MCP_PROFILE`. -/
  mcpProfile : Profile
  /-- `AD_CS_RESET`. -/
  adCsReset : Chan
  /-- `MCP_CS_RESET`. -/
  mcpCsReset : Chan
  /-- `FREQ_W`: bits of the signed frequency operand, at most the 48 the command word has for it (log 2). -/
  freqW : Nat
  /-- `FREQ_F`: fraction bits of the frequency operand. -/
  freqF : Nat
  /-- `XFER_MAX`: most words one XFER command can carry, at most the three the command word has room for (log 2). -/
  xferMax : Nat
  /-- Positions of the `AD_CTRL` fields (R27). -/
  ctrl : CtrlLayout
  /-- `FreqTag(0)` and `FreqTag(1)` (R133). -/
  freqTag0 : Word
  freqTag1 : Word
  /-- Mode patterns (R135). -/
  modes : ModePatterns
  /-- The switch `ALLOW_CPHA1` of 93_implementation_defined.md U1: off means that CFGIDLE and XFER with CPHA = 1 have
  no semantics. -/
  allowCpha1 : Bool
  /-- The switch `ALLOW_LSBF` of 93_implementation_defined.md U2: on means that an XFER with LSBF = 1 presents its words
  as R103 says; off means that their order is not claimed (`Config.freeOrder`, log 20). -/
  allowLsbf : Bool
  /-- 93_implementation_defined.md U3: which neighbour `round` takes on an exact tie (true = up, R131). -/
  tieUp : Bool
  deriving DecidableEq, Repr

/-- A free value (U2, log 20): where `ALLOW_LSBF` is off, the bits an XFER with LSBF = 1 presents for a word, slot by slot
from the least significant bit. Nothing is known of it. -/
opaque Config.freeOrder : Word → Word

end Sys2Proof
end

