-- ==== Sys2Proof/Syntax.lean ====
section
/-! DEFINITION. The command set: one constructor per row of spec/opcode_table.json (R72). Operands are what R73 to R76
assemble from the command word. -/

namespace Sys2Proof

/-- The fifteen commands of R72. -/
inductive Instr
  /-- CFGIDLE, format P: a timing profile (R106). -/
  | cfgIdle (p : Profile)
  /-- XFER, format X: channel, profile and the `CNT2` words in sending order, word 0 first (R75, R107). -/
  | xfer (c : Chan) (p : Profile) (ws : List Word)
  /-- AD.ATTACH, format N (R138). -/
  | adAttach
  /-- AD.DETACH, format N (R147). -/
  | adDetach
  /-- AD.SETCS, format I: `IMM32`, a two's-complement integer (R73, R139). -/
  | adSetCs (imm : BitVec 32)
  /-- AD.BEGIN, format N (R140). -/
  | adBegin
  /-- AD.RESET, format N (R141). -/
  | adReset
  /-- AD.SETFREQ, format F: `CH8` and `FREQ48`, both two's complement (R74, R75, R142). -/
  | adSetFreq (ch : BitVec 8) (freq : BitVec 48)
  /-- AD.SETACT, format C: `CH8` (R74, R143). -/
  | adSetAct (ch : BitVec 8)
  /-- AD.SETMODE, format M: one of the five modes (R76, R144). -/
  | adSetMode (m : Mode)
  /-- AD.SHUTDOWN, format N (R145). -/
  | adShutdown
  /-- MCP.ATTACH, format N (R172). -/
  | mcpAttach
  /-- MCP.DETACH, format N (R173). -/
  | mcpDetach
  /-- MCP.SETCS, format I (R174). -/
  | mcpSetCs (imm : BitVec 32)
  /-- MCP.WRITE, format I (R175). -/
  | mcpWrite (imm : BitVec 32)
  deriving DecidableEq, Repr

end Sys2Proof
end

