-- ==== Sys2Proof/WellFormed.lean ====
section
/-! DEFINITION. Which terms are commands, and which parameter records are configurations. The operand types already
rule out channel 3 and modes 5 to 7; what is left to check of a command is the number of words of an XFER (R76, R6 `XFER_MAX`). -/

namespace Sys2Proof

/-- R76: an XFER carries one, two or three words (`CNT2` in 1..3, `XFER_MAX = 3`); every other term is well formed. -/
def Instr.wf : Instr → Bool
  | .xfer _ _ ws => decide (1 ≤ ws.length) && decide (ws.length ≤ 3)
  | _ => true

/-- R6 `XFER_MAX`, R76, R79: a well-formed command that a block with configuration `cfg` can carry (log 2). -/
def Instr.legalIn (cfg : Config) (i : Instr) : Bool :=
  i.wf &&
    match i with
    | .xfer _ _ ws => decide (ws.length ≤ cfg.xferMax)
    | _ => true

/-- R6, R75, R76: the frequency operand and the words of an XFER fit the command word. -/
def Config.operandsFit (cfg : Config) : Bool :=
  decide (1 ≤ cfg.freqW ∧ cfg.freqW ≤ 48) && decide (1 ≤ cfg.xferMax ∧ cfg.xferMax ≤ 3)

/-- R6: the five line positions are distinct. -/
def Config.linesDistinct (cfg : Config) : Bool :=
  decide ([cfg.cs0Bit, cfg.cs1Bit, cfg.cs2Bit, cfg.sckBit, cfg.sdoBit].Nodup)

/-- R27: the ten named fields of `AD_CTRL` have distinct positions, none of them in bits 15:14 (`ADDR`). -/
def CtrlLayout.wf (l : CtrlLayout) : Bool :=
  let ps := [l.b28, l.hlb, l.fselect, l.pselect, l.reset, l.sleep1, l.sleep12, l.opbiten, l.div2, l.mode]
  decide (ps.Nodup) && ps.all fun p => decide (p.val < 14)

/-- R135: `MODE_MASK` is the union of the five patterns and the union of the five mode fields' bits. -/
def Config.modesWf (cfg : Config) : Bool :=
  let bit (p : Fin 16) : Word := 1#16 <<< p.val
  let l := cfg.ctrl
  decide (cfg.modes.mask = cfg.modes.triangle ||| cfg.modes.squareHalf ||| cfg.modes.squareFull ||| cfg.modes.off) &&
    decide (cfg.modes.mask = bit l.sleep1 ||| bit l.sleep12 ||| bit l.opbiten ||| bit l.div2 ||| bit l.mode)

/-- R133: the two frequency tags are two different non-zero values of bits 15:14, neither of them 11. -/
def Config.tagsWf (cfg : Config) : Bool :=
  decide (cfg.freqTag0 = 0x4000#16 ∧ cfg.freqTag1 = 0x8000#16) ||
    decide (cfg.freqTag0 = 0x8000#16 ∧ cfg.freqTag1 = 0x4000#16)

/-- R6: what every configuration satisfies. `MCLK_HZ` is positive; the polarity and phase of the two driver profiles
are the source's (R130, R170; the other checks: log 18). -/
def Config.wf (cfg : Config) : Bool :=
  decide (0 < cfg.mclkHz) && cfg.linesDistinct && cfg.ctrl.wf && cfg.modesWf && cfg.tagsWf && cfg.operandsFit &&
    cfg.adProfile.cpol && !cfg.adProfile.cpha && !cfg.mcpProfile.cpol && !cfg.mcpProfile.cpha

end Sys2Proof
end

