-- ==== Sys2Proof/Machine/Params.lean ====
section
/-! DEFINITION. The default configuration of R6 (and of R27, R133, R135 for the AD9833 positions, tags and patterns). -/

namespace Sys2Proof

/-- R27: the field positions of the table of R27. -/
def CtrlLayout.default : CtrlLayout where
  b28 := 13
  hlb := 12
  fselect := 11
  pselect := 10
  reset := 8
  sleep1 := 7
  sleep12 := 6
  opbiten := 5
  div2 := 3
  mode := 1

/-- R135: the patterns of the table of R135. -/
def ModePatterns.default : ModePatterns where
  triangle := 0x0002#16
  squareHalf := 0x0020#16
  squareFull := 0x0028#16
  off := 0x00C0#16
  mask := 0x00EA#16

/-- R6: the column "default". The three switches are 93_implementation_defined.md's U1, U2, U3 (log 3, log 4). -/
def Config.default : Config where
  mclkHz := 25000000
  tBitUs := 2
  tSettleUs := 1000
  tResetUs := 5000
  cs0Bit := 0
  cs1Bit := 1
  cs2Bit := 2
  sckBit := 3
  sdoBit := 5
  dirMask := 0x2F#8
  enMask := 0x2F#8
  sdoIdle := false
  mcpCmdByte := 0x11#8
  adProfile := ⟨true, false, false⟩
  mcpProfile := ⟨false, false, false⟩
  adCsReset := .cs0
  mcpCsReset := .cs1
  freqW := 48
  freqF := 16
  xferMax := 3
  ctrl := CtrlLayout.default
  freqTag0 := 0x4000#16
  freqTag1 := 0x8000#16
  modes := ModePatterns.default
  -- DESIGN CHOICE (log 3): U1 gives "default off"; R76, R104 and 95_test_vectors.md give CPHA = 1 its effect.
  allowCpha1 := true
  allowLsbf := true
  tieUp := true

end Sys2Proof
end

