-- ==== Sys2Proof/Machine/State.lean ====
section
/-! DEFINITION. The state of the block (R20), the ports' inputs and outputs (R50 to R57), the reasons a step can stop,
and the state after hardware reset (R42, R220). Plain data throughout. -/

namespace Sys2Proof.Machine

/-- R21: the five line registers, the levels most recently requested of the adapter (true = high; R7: a chip-select
is asserted when it is low). -/
structure Lines where
  cs0 : Bool
  cs1 : Bool
  cs2 : Bool
  sck : Bool
  sdo : Bool
  deriving DecidableEq, Repr

/-- R24, R26, R27, R29: the registers of the AD9833 driver. -/
structure AdRegs where
  /-- `AD_ATT` (R24). -/
  att : Bool
  /-- `AD_RST` (R26). -/
  rst : Bool
  /-- `AD_CS` (R29). -/
  cs : Chan
  /-- `AD_CTRL` (R27). -/
  ctrl : Word
  deriving DecidableEq, Repr

/-- R25, R29, R30: the registers of the MCP41010 driver. -/
structure McpRegs where
  /-- `MCP_ATT` (R25). -/
  att : Bool
  /-- `MCP_CS` (R29). -/
  cs : Chan
  deriving DecidableEq, Repr

/-- R36: the hidden shifter and counters of the transfer in progress. -/
structure Shifter where
  /-- `SHREG`. -/
  shreg : Word
  /-- `BITCNT`, 0 to 16. -/
  bitcnt : BitVec 5
  /-- `WIDX`, 0 to 2. -/
  widx : BitVec 2
  deriving DecidableEq, Repr

/-- R31, R190: the values `STATUS` takes; 5 to 7 never occur. -/
inductive Status
  | ok
  | deviceNotAttached
  | invalidArgument
  | gpioFault
  | illegalCommand
  deriving DecidableEq, Repr

/-- R57: the events of the trace. -/
inductive Event
  /-- `CFG(en, dir, st)`: one `configureOutput` request (R53). -/
  | cfg (en dir st : LineState)
  /-- `DRV(dir, st)`: one `driveLines` request (R54). -/
  | drv (dir st : LineState)
  /-- `DLY(n)`: one wait of at least `n` microseconds (R56). -/
  | dly (us : Nat)
  deriving DecidableEq, Repr

/-- R55: the adapter's answer to one request, a free input. `never` is U9 of 93_implementation_defined.md. -/
inductive Answer
  | success
  | failure
  | never
  deriving DecidableEq, Repr

/-- R56: how one wait on the delay port ends; a delay cannot fail. `never` is U9. -/
inductive Wait
  | elapsed
  | never
  deriving DecidableEq, Repr

/-- Why the machine stops with a fault. -/
inductive Fault
  /-- Raised by AD.SETFREQ alone, when it would divide by a master clock of 0 Hz: R148 makes `MCLK_HZ > 0` "a
  constraint on the configuration", so no configuration of the block reaches it. Safe: it stops. -/
  | noMasterClock
  deriving DecidableEq, Repr

/-- Why an instruction has no meaning. -/
inductive Refusal
  /-- An arm of `exec` without a meaning; no arm raises it. Safe: it stops. -/
  | notModelled (mnemonic : String)
  /-- Raised by CFGIDLE and XFER with CPHA = 1 when the configuration switches that phase off, as
  93_implementation_defined.md U1 says: "refused (no semantics)". Safe: it stops. -/
  | profileSwitchedOff
  deriving DecidableEq, Repr

/-- The machine: the registers of R20, the configuration (R6, R39), and the ports' inputs still to come and outputs so
far. -/
structure State where
  /-- The configuration record of R6; no step changes it. -/
  cfg : Config
  /-- `CS0`, `CS1`, `CS2`, `SCK`, `SDO` (R21). -/
  lines : Lines
  /-- `BUS_OK` (R23). -/
  busOk : Bool
  /-- `AD_ATT`, `AD_RST`, `AD_CS`, `AD_CTRL`. -/
  ad : AdRegs
  /-- `MCP_ATT`, `MCP_CS`. -/
  mcp : McpRegs
  /-- `STATUS` (R31). -/
  status : Status
  /-- `BUSY` (R32). -/
  busy : Bool
  /-- `SHREG`, `BITCNT`, `WIDX` (R36). -/
  shifter : Shifter
  /-- Input: the command words the host will present, in its order (R51, R58). -/
  cmds : List Cmd
  /-- Input: the adapter's answers to the requests to come, first one first; a request beyond the list is answered
  with success (R55, log 5). -/
  answers : List Answer
  /-- Input: how the delays to come end; a delay beyond the list ends (R56, log 5). -/
  waits : List Wait
  /-- Output: the trace since reset, first event first (R57, log 14). -/
  trace : List Event
  /-- Output: the statuses returned to the host since reset, first one first (R51, R190, log 14). -/
  replies : List Status
  deriving DecidableEq, Repr

/-- R42, R220: the registers after hardware reset of a block with configuration `cfg`; nothing is presented, and both
outputs are empty. `SHREG`, `BITCNT`, `WIDX` are unspecified there: 0 is a DESIGN CHOICE (log 6). -/
def State.resetWith (cfg : Config) : State where
  cfg := cfg
  lines := { cs0 := true, cs1 := true, cs2 := true, sck := false, sdo := false }
  busOk := false
  ad := { att := false, rst := false, cs := cfg.adCsReset, ctrl := 0#16 }
  mcp := { att := false, cs := cfg.mcpCsReset }
  status := .ok
  busy := false
  shifter := { shreg := 0#16, bitcnt := 0#5, widx := 0#2 }
  cmds := []
  answers := []
  waits := []
  trace := []
  replies := []

/-- The machine right after reset, at the default configuration of R6. -/
def State.reset : State := State.resetWith Config.default

end Sys2Proof.Machine
end

