-- ==== Sys2Proof/Machine/Flags.lean ====
section
/-! DEFINITION. The computations on status codes, lines and control-register fields: `STATUS` codes (R31), the line
registers by name (R21), `Pack()` (R22), the fields of `AD_CTRL` (R27) and the mode patterns (R135). -/

namespace Sys2Proof.Machine

/-- R31: the numeric code of a status. -/
def Status.code : Status → BitVec 3
  | .ok => 0#3
  | .deviceNotAttached => 1#3
  | .invalidArgument => 2#3
  | .gpioFault => 3#3
  | .illegalCommand => 4#3

/-- R21: `CS[c]`. -/
def Lines.cs (l : Lines) : Chan → Bool
  | .cs0 => l.cs0
  | .cs1 => l.cs1
  | .cs2 => l.cs2

/-- R21: `CS[c] <- b`. -/
def Lines.setCs (l : Lines) (c : Chan) (b : Bool) : Lines :=
  match c with
  | .cs0 => { l with cs0 := b }
  | .cs1 => { l with cs1 := b }
  | .cs2 => { l with cs2 := b }

/-- `SCK <- b`. -/
def Lines.setSck (l : Lines) (b : Bool) : Lines := { l with sck := b }

/-- `SDO <- b`. -/
def Lines.setSdo (l : Lines) (b : Bool) : Lines := { l with sdo := b }

/-- R101, R106: all chip-selects deasserted, the clock at level `sck`, the data line at `SDO_IDLE`. -/
def Lines.idle (cfg : Config) (sck : Bool) : Lines :=
  { cs0 := true, cs1 := true, cs2 := true, sck := sck, sdo := cfg.sdoIdle }

/-- R9: the idle level `I = CPOL` of a profile. -/
def idleLevel (p : Profile) : Bool := p.cpol

/-- R9: the active level `A = ¬CPOL` of a profile. -/
def activeLevel (p : Profile) : Bool := !p.cpol

/-- One line's contribution to `Pack()`: `uint(b) << pos` in 8 bits. -/
def lineBit (pos : Fin 8) (b : Bool) : LineState := if b then 1#8 <<< pos.val else 0#8

/-- R22: `Pack()`. -/
def pack (cfg : Config) (l : Lines) : LineState :=
  lineBit cfg.cs0Bit l.cs0 ||| lineBit cfg.cs1Bit l.cs1 ||| lineBit cfg.cs2Bit l.cs2 |||
    lineBit cfg.sckBit l.sck ||| lineBit cfg.sdoBit l.sdo

/-- R6: the position of chip-select line `c`. -/
def csBit (cfg : Config) : Chan → Fin 8
  | .cs0 => cfg.cs0Bit
  | .cs1 => cfg.cs1Bit
  | .cs2 => cfg.cs2Bit

/-- R27: the position of a named field of `AD_CTRL`. -/
def ctrlPos (l : CtrlLayout) : CtrlField → Fin 16
  | .b28 => l.b28
  | .hlb => l.hlb
  | .fselect => l.fselect
  | .pselect => l.pselect
  | .reset => l.reset
  | .sleep1 => l.sleep1
  | .sleep12 => l.sleep12
  | .opbiten => l.opbiten
  | .div2 => l.div2
  | .mode => l.mode

/-- R27: the one-bit mask of a field. -/
def ctrlBit (l : CtrlLayout) (f : CtrlField) : Word := 1#16 <<< (ctrlPos l f).val

/-- R27: read of a field of the image. -/
def ctrlGet (l : CtrlLayout) (f : CtrlField) (v : Word) : Bool := v.getLsbD (ctrlPos l f).val

/-- R27, R148: bitwise write of a field of the image; every other bit is kept. -/
def ctrlPut (l : CtrlLayout) (f : CtrlField) (b : Bool) (v : Word) : Word :=
  if b then v ||| ctrlBit l f else v &&& ~~~(ctrlBit l f)

/-- R135: `ModeBits(m)`; sine is "all-mode-bits-zero". -/
def modeBits (ms : ModePatterns) : Mode → Word
  | .sine => 0#16
  | .triangle => ms.triangle
  | .squareHalf => ms.squareHalf
  | .squareFull => ms.squareFull
  | .off => ms.off

/-- R144: the image with its mode field replaced. -/
def ctrlWithMode (ms : ModePatterns) (m : Mode) (v : Word) : Word := (v &&& ~~~ms.mask) ||| modeBits ms m

end Sys2Proof.Machine
end

