-- ==== Sys2Proof/Machine/Operands.lean ====
section
/-! DEFINITION. What the operands of the commands stand for: channel indices (R139, R174), frequency channel and
operand (R74, R75), the frequency divider and the tagged words (R131 to R133), the wiper value and its word (R171), the
bit order of a word (R103), and what the configuration's switches make of a profile (U1, U2). -/

namespace Sys2Proof.Machine

/-- R139, R174: the channel a SETCS index selects; an index outside {0,1,2} selects channel 0. -/
def chanOfIndex (i : Int) : Chan :=
  if i = 1 then .cs1 else if i = 2 then .cs2 else .cs0

/-- R142, R143: `ch = 0 or ch = 1`, compared as a signed integer (R148). -/
def isFreqChannel (ch : Int) : Bool := decide (ch = 0) || decide (ch = 1)

/-- R6, R75, R131: the operand of AD.SETFREQ, a signed number of `FREQ_W` bits in units of `2^-FREQ_F` hertz; with
`FREQ_W = 48` it is `F = sint(FREQ48)`. A narrower operand is the low bits of the field, the others are ignored (log
2). -/
def freqOperand (cfg : Config) (f : BitVec 48) : Int := (f.signExtend cfg.freqW).toInt

/-- R131: `FreqReg(F)` for `F >= 0`: the nearest integer to `F * 2^28 / (MCLK_HZ * 2^FREQ_F)`, a tie going up (or down
where the configuration says so: U3, log 4). Exact arithmetic on unbounded non-negative integers (R148). -/
def freqReg (cfg : Config) (f : Nat) : Nat :=
  (f * 2 ^ 29 + cfg.mclkHz * 2 ^ cfg.freqF - (if cfg.tieUp then 0 else 1)) / (cfg.mclkHz * 2 ^ (cfg.freqF + 1))

/-- R132: `R28`, the register value reduced to 28 bits (U4, log 10). -/
def freqReg28 (cfg : Config) (f : Nat) : BitVec 28 := BitVec.ofNat 28 (freqReg cfg f)

/-- R132: `FreqLo14 = R28[13:0]`. -/
def freqLo14 (cfg : Config) (f : Nat) : BitVec 14 := (freqReg28 cfg f).extractLsb' 0 14

/-- R132: `FreqHi14 = R28[27:14]`. -/
def freqHi14 (cfg : Config) (f : Nat) : BitVec 14 := (freqReg28 cfg f).extractLsb' 14 14

/-- R133: `FreqTag(ch)`. -/
def freqTag (cfg : Config) (ch : Int) : Word := if ch = 0 then cfg.freqTag0 else cfg.freqTag1

/-- R133: `FreqLoWord(ch, F)`. -/
def freqLoWord (cfg : Config) (ch : Int) (f : Nat) : Word := freqTag cfg ch ||| (freqLo14 cfg f).setWidth 16

/-- R133: `FreqHiWord(ch, F)`. -/
def freqHiWord (cfg : Config) (ch : Int) (f : Nat) : Word := freqTag cfg ch ||| (freqHi14 cfg f).setWidth 16

/-- R171: `Clamp255(v)`. -/
def clamp255 (v : Int) : BitVec 8 := if v < 0 then 0#8 else if 255 < v then 255#8 else BitVec.ofInt 8 v

/-- R171: `McpWord(v)`, the command byte in bits 15:8 and the clamped value in bits 7:0. -/
def mcpWord (cfg : Config) (v : Int) : Word :=
  (cfg.mcpCmdByte.setWidth 16 <<< 8) ||| (clamp255 v).setWidth 16

/-- R103: `Bit(w, j, LSBF)`, the bit presented in slot `j` of 0..15. -/
def slotBit (w : Word) (j : Nat) (lsbf : Bool) : Bool := if lsbf then w.getLsbD j else w.getLsbD (15 - j)

/-- U1: whether the configuration gives CFGIDLE and XFER with this profile a semantics. -/
def profileAllowed (cfg : Config) (p : Profile) : Bool := cfg.allowCpha1 || !p.cpha

/-- R103, U2: the word whose bits an XFER presents for its operand `w`: `w` itself; a free word where the profile has
`LSBF = 1` and the configuration does not say how that is presented (`ALLOW_LSBF` off: log 20). -/
def sentWord (cfg : Config) (p : Profile) (w : Word) : Word :=
  if p.lsbf && !cfg.allowLsbf then Config.freeOrder w else w

end Sys2Proof.Machine
end

