-- ==== Sys2Proof/Machine/Ops.lean ====
section
/-! DEFINITION. The shared operations: named register updates, how a command ends (`raise`, `finish`), the requests on
the GPIO port and the delay port, and the frame every command runs in. The block has no memory (R50), so there is no
read or write of one. -/

namespace Sys2Proof.Machine

/-! ### Register updates -/

def State.setLines (s : State) (l : Lines) : State := { s with lines := l }
def State.setBusOk (s : State) (b : Bool) : State := { s with busOk := b }
def State.setAdAtt (s : State) (b : Bool) : State := { s with ad := { s.ad with att := b } }
def State.setAdRst (s : State) (b : Bool) : State := { s with ad := { s.ad with rst := b } }
def State.setAdCs (s : State) (c : Chan) : State := { s with ad := { s.ad with cs := c } }
def State.setAdCtrl (s : State) (v : Word) : State := { s with ad := { s.ad with ctrl := v } }
def State.setMcpAtt (s : State) (b : Bool) : State := { s with mcp := { s.mcp with att := b } }
def State.setMcpCs (s : State) (c : Chan) : State := { s with mcp := { s.mcp with cs := c } }
def State.setShifter (s : State) (sh : Shifter) : State := { s with shifter := sh }
def State.setCmds (s : State) (cs : List Cmd) : State := { s with cmds := cs }
def State.setAnswers (s : State) (as : List Answer) : State := { s with answers := as }
def State.setWaits (s : State) (ws : List Wait) : State := { s with waits := ws }

/-- R57: the event is appended to the trace. -/
def State.log (s : State) (e : Event) : State := { s with trace := s.trace ++ [e] }

/-- R32, R51: the command port has accepted a command. -/
def State.accept (s : State) : State := { s with busy := true }

/-- R51, R190: the command ends: `STATUS` is written, `BUSY` cleared and the status returned to the host. -/
def State.close (s : State) (e : Status) : State :=
  { s with status := e, busy := false, replies := s.replies ++ [e] }

/-! ### Running the lines of a command's rule in order -/

/-- Where a command is after some of its lines: `go` on with the next line, or stopped, because an error was raised
(R190) or because the adapter or the delay primitive never answers (U9; `BUSY` then stays 1). -/
inductive Run
  | go (s : State)
  | stop (s : State)
  deriving DecidableEq, Repr

/-- The next lines of the rule, run only if the earlier ones went on (R8 `raise`: "nothing after it runs"). -/
def Run.andThen (r : Run) (f : State → Run) : Run :=
  match r with
  | .go s => f s
  | .stop s => .stop s

/-- Taking an exception, the whole of it (R190, R198): the command stops here, `STATUS <- e`, `BUSY` is cleared, the
status goes to the host; nothing is saved and control goes nowhere. There is no return from one (R199). -/
def raise (e : Status) (s : State) : Run := .stop (s.close e)

/-- R8: `require c else raise e`. -/
def require (c : Bool) (e : Status) (s : State) : Run := if c then .go s else raise e s

/-- The end of a command: R190 `STATUS <- OK` when its last line was reached, else as it stopped. -/
def Run.finish (r : Run) : State :=
  match r with
  | .go s => s.close .ok
  | .stop s => s

/-- R51, R58: a command accepted and executed to its end. -/
def command (body : State → Run) (s : State) : Host.Outcome State Fault Refusal := .next (body s.accept).finish

/-- R195: an illegal command word: status `IllegalCommand`, nothing else. -/
def illegal (s : State) : Host.Outcome State Fault Refusal := command (raise .illegalCommand) s

/-! ### The two output ports -/

/-- R55: one adapter request: the event is logged and the adapter's next answer decides. On failure `BUS_OK <- 0` and
`GpioFault`, with the line registers as requested. A request beyond the listed answers succeeds (log 5). -/
def request (e : Event) (s : State) : Run :=
  match s.answers with
  | [] => .go (s.log e)
  | .success :: as => .go ((s.log e).setAnswers as)
  | .failure :: as => raise .gpioFault (((s.log e).setAnswers as).setBusOk false)
  | .never :: as => .stop ((s.log e).setAnswers as)

/-- R53: `GpioConfigure(EN_MASK, DIR_MASK, Pack())`. -/
def gpioConfigure (s : State) : Run := request (.cfg s.cfg.enMask s.cfg.dirMask (pack s.cfg s.lines)) s

/-- R54: `GpioDrive(DIR_MASK, Pack())`. -/
def gpioDrive (s : State) : Run := request (.drv s.cfg.dirMask (pack s.cfg s.lines)) s

/-- R56: `Delay(n)`: the event is logged and the wait ends, or never does (U9). It cannot fail. -/
def delay (n : Nat) (s : State) : Run :=
  match s.waits with
  | [] => .go (s.log (.dly n))
  | .elapsed :: ws => .go ((s.log (.dly n)).setWaits ws)
  | .never :: ws => .stop ((s.log (.dly n)).setWaits ws)

/-- R102: `Step()` with the line registers set to `l` first. -/
def stepLines (l : Lines) (s : State) : Run :=
  (gpioDrive (s.setLines l)).andThen fun s => delay s.cfg.tBitUs s

end Sys2Proof.Machine
end

