-- ==== Sys2Proof/Machine/Engine.lean ====
section
/-! DEFINITION. The bit-bang SPI engine: `CfgIdle`, `TransferWord`, `Transfer` and the commands CFGIDLE and XFER (R100
to R113). -/

namespace Sys2Proof.Machine

/-- R106: `CfgIdle(p)`; only `CPOL` of the profile is used. -/
def cfgIdleProc (p : Profile) (s : State) : Run :=
  (gpioConfigure (s.setLines (Lines.idle s.cfg (idleLevel p)))).andThen fun s =>
  (delay s.cfg.tSettleUs s).andThen fun s =>
  .go (s.setBusOk true)

/-- R36: at the start of word `k`, `SHREG <- w`, `BITCNT <- 0`, `WIDX <- k`. -/
def Shifter.load (w : Word) (k : Nat) : Shifter := { shreg := w, bitcnt := 0#5, widx := BitVec.ofNat 2 k }

/-- R36: the bit the shifter presents: `SHREG[0]` when `LSBF = 1`, else `SHREG[15]`. -/
def Shifter.out (sh : Shifter) (lsbf : Bool) : Bool := if lsbf then sh.shreg.getLsbD 0 else sh.shreg.getLsbD 15

/-- R36: after a bit: right by one when `LSBF = 1`, else left by one, zeros in; `BITCNT` counts. -/
def Shifter.advance (sh : Shifter) (lsbf : Bool) : Shifter :=
  { sh with shreg := if lsbf then sh.shreg >>> 1 else sh.shreg <<< 1, bitcnt := sh.bitcnt + 1#5 }

/-- R104 (2a) to (2c), (3a) to (3c): one bit slot. With `CPHA = 0` the data is placed, then the leading edge, then the
trailing edge; with `CPHA = 1` the leading edge comes first (U1). -/
def bitSlot (p : Profile) (s : State) : Run :=
  let b := s.shifter.out p.lsbf
  Run.andThen
    (if p.cpha then
      (stepLines (s.lines.setSck (activeLevel p)) s).andThen fun s =>
      (stepLines (s.lines.setSdo b) s).andThen fun s =>
      stepLines (s.lines.setSck (idleLevel p)) s
    else
      (stepLines (s.lines.setSdo b) s).andThen fun s =>
      (stepLines (s.lines.setSck (activeLevel p)) s).andThen fun s =>
      stepLines (s.lines.setSck (idleLevel p)) s)
    fun s => .go (s.setShifter (s.shifter.advance p.lsbf))

/-- R104: `n` bit slots one after the other. -/
def bitSlots (p : Profile) : Nat → State → Run
  | 0, s => .go s
  | n + 1, s => (bitSlot p s).andThen (bitSlots p n)

/-- R104: `TransferWord(w, c, p)`, for word `k` of its transfer: assert, sixteen slots, deassert, lines to idle. -/
def transferWord (c : Chan) (p : Profile) (k : Nat) (w : Word) (s : State) : Run :=
  (stepLines (s.lines.setCs c false) (s.setShifter (Shifter.load w k))).andThen fun s =>
  (bitSlots p 16 s).andThen fun s =>
  (stepLines (s.lines.setCs c true) s).andThen fun s =>
  stepLines ((s.lines.setSck (idleLevel p)).setSdo s.cfg.sdoIdle) s

/-- R107: the words of a transfer in index order, from index `k`. -/
def transferWords (c : Chan) (p : Profile) : Nat → List Word → State → Run
  | _, [], s => .go s
  | k, w :: ws, s => (transferWord c p k w s).andThen (transferWords c p (k + 1) ws)

/-- R107: `Transfer(ws, c, p)`: `GpioFault` with no event when `BUS_OK = 0`. -/
def transfer (ws : List Word) (c : Chan) (p : Profile) (s : State) : Run :=
  (require s.busOk .gpioFault s).andThen (transferWords c p 0 ws)

/-- CFGIDLE (R106); with its phase switched off it has no semantics (U1). -/
def execCfgIdle (p : Profile) (s : State) : Host.Outcome State Fault Refusal :=
  if profileAllowed s.cfg p then command (cfgIdleProc p) s else .refused .profileSwitchedOff

/-- XFER (R107); a term without a word, or with more than `XFER_MAX`, is no command
of this block (R77 (d), R79, log 2, log 15); with its phase switched off it has no semantics (U1), and with its bit
order switched off the bits of its words are free (U2, log 20). -/
def execXfer (c : Chan) (p : Profile) (ws : List Word) (s : State) : Host.Outcome State Fault Refusal :=
  if (Instr.xfer c p ws).legalIn s.cfg then
    if profileAllowed s.cfg p then command (transfer (ws.map (sentWord s.cfg p)) c p) s
    else .refused .profileSwitchedOff
  else illegal s

end Sys2Proof.Machine
end

