-- ==== Sys2Proof/Machine/Ad9833.lean ====
section
/-! DEFINITION. The AD9833 driver's commands (R130 to R147). -/

namespace Sys2Proof.Machine

/-- R192: the attach check of the AD9833 driver. -/
def requireAd (s : State) : Run := require s.ad.att .deviceNotAttached s

/-- R136: `WriteReg()`: the control image as it stands, on the selected channel. -/
def writeReg (s : State) : Run := transfer [s.ad.ctrl] s.ad.cs s.cfg.adProfile s

/-- R137: `AD_CTRL.f <- b`. -/
def putCtrl (f : CtrlField) (b : Bool) (s : State) : State := s.setAdCtrl (ctrlPut s.cfg.ctrl f b s.ad.ctrl)

/-- R137: `ResetSeq()`. -/
def resetSeq (s : State) : Run :=
  (writeReg (putCtrl .reset true s)).andThen fun s =>
  (delay s.cfg.tResetUs (s.setAdRst true)).andThen fun s =>
  (writeReg (putCtrl .reset false s)).andThen fun s =>
  .go (s.setAdRst false)

/-- R144: the lines of AD.SETMODE. -/
def setModeProc (m : Mode) (s : State) : Run :=
  (requireAd s).andThen fun s => writeReg (s.setAdCtrl (ctrlWithMode s.cfg.modes m s.ad.ctrl))

/-- AD.ATTACH (R138). -/
def execAdAttach (s : State) : Host.Outcome State Fault Refusal :=
  command (fun s => (cfgIdleProc s.cfg.adProfile s).andThen fun s => .go (s.setAdAtt true)) s

/-- AD.DETACH (R147): the image, `AD_RST` (log 17) and `AD_ATT` are cleared, no event. -/
def execAdDetach (s : State) : Host.Outcome State Fault Refusal :=
  command (fun s => .go (((s.setAdCtrl 0#16).setAdRst false).setAdAtt false)) s

/-- AD.SETCS (R139). -/
def execAdSetCs (imm : BitVec 32) (s : State) : Host.Outcome State Fault Refusal :=
  command (fun s => .go (s.setAdCs (chanOfIndex imm.toInt))) s

/-- AD.BEGIN (R140). -/
def execAdBegin (s : State) : Host.Outcome State Fault Refusal :=
  command
    (fun s => (requireAd s).andThen fun s => (writeReg (putCtrl .b28 true s)).andThen resetSeq) s

/-- AD.RESET (R141). -/
def execAdReset (s : State) : Host.Outcome State Fault Refusal :=
  command (fun s => (requireAd s).andThen resetSeq) s

/-- R142: the operand check of AD.SETFREQ. -/
def freqArgsOk (cfg : Config) (ch : BitVec 8) (f : BitVec 48) : Bool :=
  isFreqChannel ch.toInt && decide (0 ≤ freqOperand cfg f)

/-- R142: the three words of AD.SETFREQ, in sending order: the image, the low half, the high half. -/
def freqWords (ch : BitVec 8) (f : BitVec 48) (s : State) : List Word :=
  let n := (freqOperand s.cfg f).toNat
  [s.ad.ctrl, freqLoWord s.cfg ch.toInt n, freqHiWord s.cfg ch.toInt n]

/-- R142: the lines of AD.SETFREQ. -/
def setFreqProc (ch : BitVec 8) (f : BitVec 48) (s : State) : Run :=
  (require (freqArgsOk s.cfg ch f) .invalidArgument s).andThen fun s =>
  (requireAd s).andThen fun s =>
  transfer (freqWords ch f s) s.ad.cs s.cfg.adProfile s

/-- AD.SETFREQ (R142). Where the divider would divide by a master clock of 0 Hz, which no configuration has (R148),
the machine stops. -/
def execAdSetFreq (ch : BitVec 8) (f : BitVec 48) (s : State) : Host.Outcome State Fault Refusal :=
  if s.cfg.mclkHz = 0 ∧ freqArgsOk s.cfg ch f ∧ s.ad.att ∧ s.busOk then .fault .noMasterClock
  else command (setFreqProc ch f) s

/-- AD.SETACT (R143): `FSELECT <- ch`, then the image is sent. -/
def execAdSetAct (ch : BitVec 8) (s : State) : Host.Outcome State Fault Refusal :=
  command
    (fun s =>
      (require (isFreqChannel ch.toInt) .invalidArgument s).andThen fun s =>
      (requireAd s).andThen fun s =>
      writeReg (putCtrl .fselect (decide (ch.toInt = 1)) s)) s

/-- AD.SETMODE (R144). -/
def execAdSetMode (m : Mode) (s : State) : Host.Outcome State Fault Refusal := command (setModeProc m) s

/-- AD.SHUTDOWN (R145): "equivalent to `setMode(OFF)`". -/
def execAdShutdown (s : State) : Host.Outcome State Fault Refusal := command (setModeProc .off) s

end Sys2Proof.Machine
end

