-- ==== Sys2Proof/Machine/Mcp41010.lean ====
section
/-! DEFINITION. The MCP41010 driver's commands (R170 to R176). -/

namespace Sys2Proof.Machine

/-- R192: the attach check of the MCP41010 driver. -/
def requireMcp (s : State) : Run := require s.mcp.att .deviceNotAttached s

/-- MCP.ATTACH (R172). -/
def execMcpAttach (s : State) : Host.Outcome State Fault Refusal :=
  command (fun s => (cfgIdleProc s.cfg.mcpProfile s).andThen fun s => .go (s.setMcpAtt true)) s

/-- MCP.DETACH (R173). -/
def execMcpDetach (s : State) : Host.Outcome State Fault Refusal := command (fun s => .go (s.setMcpAtt false)) s

/-- MCP.SETCS (R174): an out-of-range index selects channel 0 (decision D30, U15, log 11). -/
def execMcpSetCs (imm : BitVec 32) (s : State) : Host.Outcome State Fault Refusal :=
  command (fun s => .go (s.setMcpCs (chanOfIndex imm.toInt))) s

/-- MCP.WRITE (R175): one word, the clamped value under the command byte. -/
def execMcpWrite (imm : BitVec 32) (s : State) : Host.Outcome State Fault Refusal :=
  command
    (fun s => (requireMcp s).andThen fun s =>
      transfer [mcpWord s.cfg imm.toInt] s.mcp.cs s.cfg.mcpProfile s) s

end Sys2Proof.Machine
end

