-- ==== Sys2Proof/Machine/Dispatch.lean ====
section
/-! DEFINITION. One arm per command. -/

namespace Sys2Proof.Machine

def exec (i : Instr) (s : State) : Host.Outcome State Fault Refusal :=
  match i with
  | .cfgIdle p => Sys2Proof.Machine.execCfgIdle p s
  | .xfer c p ws => Sys2Proof.Machine.execXfer c p ws s
  | .adAttach => Sys2Proof.Machine.execAdAttach s
  | .adDetach => Sys2Proof.Machine.execAdDetach s
  | .adSetCs imm => Sys2Proof.Machine.execAdSetCs imm s
  | .adBegin => Sys2Proof.Machine.execAdBegin s
  | .adReset => Sys2Proof.Machine.execAdReset s
  | .adSetFreq ch f => Sys2Proof.Machine.execAdSetFreq ch f s
  | .adSetAct ch => Sys2Proof.Machine.execAdSetAct ch s
  | .adSetMode m => Sys2Proof.Machine.execAdSetMode m s
  | .adShutdown => Sys2Proof.Machine.execAdShutdown s
  | .mcpAttach => Sys2Proof.Machine.execMcpAttach s
  | .mcpDetach => Sys2Proof.Machine.execMcpDetach s
  | .mcpSetCs imm => Sys2Proof.Machine.execMcpSetCs imm s
  | .mcpWrite imm => Sys2Proof.Machine.execMcpWrite imm s

end Sys2Proof.Machine
end

