-- ==== Sys2Proof/Decode.lean ====
section
/-! DEFINITION. The decoder of the 64-bit command word (R70 to R78), total and rejecting by name, and the encoder
written from the same tables. A command word is one whole word and has no byte order (R60, R61). -/

namespace Sys2Proof

/-- R77: why a command word is illegal, in the order (a) to (e) of the rule. -/
inductive Reject
  /-- (a) `OPC` is none of the fifteen values of R72. -/
  | unassignedOpcode
  /-- (b) a must-be-zero bit of the format is 1. -/
  | mustBeZero
  /-- (c) format X with `CHAN2 = 3`. -/
  | channelThree
  /-- (d) format X with `CNT2 = 0`. -/
  | countZero
  /-- (e) format M with `MODE3` in 5..7. -/
  | modeReserved
  deriving DecidableEq, Repr

/-- The bits `hi..lo` of a command word, `n = hi - lo + 1` of them (R7 `v[hi:lo]`). -/
def field (n lo : Nat) (w : Cmd) : BitVec n := w.extractLsb' lo n

/-- R70: `OPC = CMD[63:56]`. -/
def opc (w : Cmd) : BitVec 8 := field 8 56 w

/-- R76: `PROF3`: bit 0 `CPOL`, bit 1 `CPHA`, bit 2 `LSBF`. -/
def Profile.ofBits (b : BitVec 3) : Profile := ⟨b.getLsbD 0, b.getLsbD 1, b.getLsbD 2⟩

/-- R76: the three bits of `PROF3`. -/
def Profile.toBits (p : Profile) : BitVec 3 :=
  (BitVec.ofBool p.lsbf ++ BitVec.ofBool p.cpha) ++ BitVec.ofBool p.cpol

/-- R76: `CHAN2`; the value 3 names no channel. -/
def Chan.ofBits (b : BitVec 2) : Option Chan :=
  if b = 0#2 then some .cs0 else if b = 1#2 then some .cs1 else if b = 2#2 then some .cs2 else none

/-- R29, R76: the number of a channel. -/
def Chan.toBits : Chan → BitVec 2
  | .cs0 => 0#2
  | .cs1 => 1#2
  | .cs2 => 2#2

/-- R76: `MODE3`; the values 5 to 7 name no mode. -/
def Mode.ofBits (b : BitVec 3) : Option Mode :=
  if b = 0#3 then some .sine else if b = 1#3 then some .triangle else if b = 2#3 then some .squareHalf
  else if b = 3#3 then some .squareFull else if b = 4#3 then some .off else none

/-- R76: the number of a mode. -/
def Mode.toBits : Mode → BitVec 3
  | .sine => 0#3
  | .triangle => 1#3
  | .squareHalf => 2#3
  | .squareFull => 3#3
  | .off => 4#3

/-- R71 format N: `A` and `B` must be zero. -/
def decodeN (i : Instr) (w : Cmd) : Except Reject Instr :=
  if field 56 0 w = 0#56 then .ok i else .error .mustBeZero

/-- R71 format I: `CMD[55:32]` must be zero, `IMM32 = CMD[31:0]`. -/
def decodeI (mk : BitVec 32 → Instr) (w : Cmd) : Except Reject Instr :=
  if field 24 32 w = 0#24 then .ok (mk (field 32 0 w)) else .error .mustBeZero

/-- R71 format C: `CH8 = CMD[55:48]`, `B` must be zero. -/
def decodeC (mk : BitVec 8 → Instr) (w : Cmd) : Except Reject Instr :=
  if field 48 0 w = 0#48 then .ok (mk (field 8 48 w)) else .error .mustBeZero

/-- R71 format F: `CH8 = CMD[55:48]`, `FREQ48 = CMD[47:0]`. -/
def decodeF (mk : BitVec 8 → BitVec 48 → Instr) (w : Cmd) : Except Reject Instr :=
  .ok (mk (field 8 48 w) (field 48 0 w))

/-- R71 format M: `MODE3 = CMD[50:48]`, all else must be zero; R77 (e). -/
def decodeM (mk : Mode → Instr) (w : Cmd) : Except Reject Instr :=
  if field 5 51 w = 0#5 ∧ field 48 0 w = 0#48 then
    match Mode.ofBits (field 3 48 w) with
    | some m => .ok (mk m)
    | none => .error .modeReserved
  else .error .mustBeZero

/-- R71 format P: `PROF3 = CMD[50:48]`, all else must be zero. -/
def decodeP (mk : Profile → Instr) (w : Cmd) : Except Reject Instr :=
  if field 5 51 w = 0#5 ∧ field 48 0 w = 0#48 then .ok (mk (Profile.ofBits (field 3 48 w)))
  else .error .mustBeZero

/-- R75: the first `CNT2` of `W0 = CMD[15:0]`, `W1 = CMD[31:16]`, `W2 = CMD[47:32]`; the others are ignored. -/
def xferWords (w : Cmd) : List Word :=
  [field 16 0 w, field 16 16 w, field 16 32 w].take (field 2 53 w).toNat

/-- R71 format X: `CMD[55]` must be zero, `CNT2 = CMD[54:53]`, `CHAN2 = CMD[52:51]`, `PROF3 = CMD[50:48]`; R77 (c),
(d). -/
def decodeX (mk : Chan → Profile → List Word → Instr) (w : Cmd) : Except Reject Instr :=
  if field 1 55 w = 0#1 then
    match Chan.ofBits (field 2 51 w) with
    | none => .error .channelThree
    | some c =>
      if field 2 53 w = 0#2 then .error .countZero
      else .ok (mk c (Profile.ofBits (field 3 48 w)) (xferWords w))
  else .error .mustBeZero

/-- R72, R77, R78: the command a word is, or why it is illegal. -/
def decode (w : Cmd) : Except Reject Instr :=
  if opc w = 0x01#8 then decodeP .cfgIdle w
  else if opc w = 0x02#8 then decodeX .xfer w
  else if opc w = 0x10#8 then decodeN .adAttach w
  else if opc w = 0x11#8 then decodeN .adDetach w
  else if opc w = 0x12#8 then decodeI .adSetCs w
  else if opc w = 0x13#8 then decodeN .adBegin w
  else if opc w = 0x14#8 then decodeN .adReset w
  else if opc w = 0x15#8 then decodeF .adSetFreq w
  else if opc w = 0x16#8 then decodeC .adSetAct w
  else if opc w = 0x17#8 then decodeM .adSetMode w
  else if opc w = 0x18#8 then decodeN .adShutdown w
  else if opc w = 0x20#8 then decodeN .mcpAttach w
  else if opc w = 0x21#8 then decodeN .mcpDetach w
  else if opc w = 0x22#8 then decodeI .mcpSetCs w
  else if opc w = 0x23#8 then decodeI .mcpWrite w
  else .error .unassignedOpcode

/-- R72: the opcode of a command. -/
def Instr.opcode : Instr → BitVec 8
  | .cfgIdle _ => 0x01#8
  | .xfer _ _ _ => 0x02#8
  | .adAttach => 0x10#8
  | .adDetach => 0x11#8
  | .adSetCs _ => 0x12#8
  | .adBegin => 0x13#8
  | .adReset => 0x14#8
  | .adSetFreq _ _ => 0x15#8
  | .adSetAct _ => 0x16#8
  | .adSetMode _ => 0x17#8
  | .adShutdown => 0x18#8
  | .mcpAttach => 0x20#8
  | .mcpDetach => 0x21#8
  | .mcpSetCs _ => 0x22#8
  | .mcpWrite _ => 0x23#8

/-- R71: the short operand `A = CMD[55:48]` of a command. -/
def Instr.shortOperand : Instr → BitVec 8
  | .cfgIdle p => 0#5 ++ p.toBits
  | .xfer c p ws => ((0#1 ++ BitVec.ofNat 2 ws.length) ++ c.toBits) ++ p.toBits
  | .adSetFreq ch _ => ch
  | .adSetAct ch => ch
  | .adSetMode m => 0#5 ++ m.toBits
  | .adAttach | .adDetach | .adSetCs _ | .adBegin | .adReset | .adShutdown => 0#8
  | .mcpAttach | .mcpDetach | .mcpSetCs _ | .mcpWrite _ => 0#8

/-- R71: the long operand `B = CMD[47:0]` of a command; the words an XFER does not carry are sent as 0. -/
def Instr.longOperand : Instr → BitVec 48
  | .xfer _ _ ws => (ws.getD 2 0#16 ++ ws.getD 1 0#16) ++ ws.getD 0 0#16
  | .adSetCs imm => 0#16 ++ imm
  | .adSetFreq _ f => f
  | .mcpSetCs imm => 0#16 ++ imm
  | .mcpWrite imm => 0#16 ++ imm
  | .cfgIdle _ | .adAttach | .adDetach | .adBegin | .adReset | .adSetAct _ | .adSetMode _ | .adShutdown => 0#48
  | .mcpAttach | .mcpDetach => 0#48

/-- R70: the command word of a well-formed command, `OPC ++ A ++ B`. -/
def encode (i : Instr) : Cmd := (i.opcode ++ i.shortOperand) ++ i.longOperand

/-- R71, R72: `(match, mask)` of the fifteen rows of the opcode map, in the table's order; no function uses it. -/
def opcodeRows : List (Cmd × Cmd) :=
  [(0x0100000000000000#64, 0xFFF8FFFFFFFFFFFF#64), (0x0200000000000000#64, 0xFF80000000000000#64),
   (0x1000000000000000#64, 0xFFFFFFFFFFFFFFFF#64), (0x1100000000000000#64, 0xFFFFFFFFFFFFFFFF#64),
   (0x1200000000000000#64, 0xFFFFFFFF00000000#64), (0x1300000000000000#64, 0xFFFFFFFFFFFFFFFF#64),
   (0x1400000000000000#64, 0xFFFFFFFFFFFFFFFF#64), (0x1500000000000000#64, 0xFF00000000000000#64)] ++
  [(0x1600000000000000#64, 0xFF00FFFFFFFFFFFF#64), (0x1700000000000000#64, 0xFFF8FFFFFFFFFFFF#64),
   (0x1800000000000000#64, 0xFFFFFFFFFFFFFFFF#64), (0x2000000000000000#64, 0xFFFFFFFFFFFFFFFF#64),
   (0x2100000000000000#64, 0xFFFFFFFFFFFFFFFF#64), (0x2200000000000000#64, 0xFFFFFFFF00000000#64),
   (0x2300000000000000#64, 0xFFFFFFFF00000000#64)]

/-- R75: the bits of a command word that mean something: all but the words of an XFER at index `CNT2` or above. -/
def usedBits (w : Cmd) : Cmd :=
  if opc w = 0x02#8 then
    if field 2 53 w = 1#2 then 0xFFFF00000000FFFF#64
    else if field 2 53 w = 2#2 then 0xFFFF0000FFFFFFFF#64 else 0xFFFFFFFFFFFFFFFF#64
  else 0xFFFFFFFFFFFFFFFF#64

/-- The host's reader of one opcode-table word: bit 0 is the least significant bit of the command word, as the table
numbers it; the bits from `nbits` up are 0. -/
def decodeTableWord (nbits w : Nat) : Option Instr :=
  match decode (BitVec.ofNat 64 (w % 2 ^ nbits)) with
  | .ok i => some i
  | .error _ => none

end Sys2Proof
end

