-- ==== Sys2Proof/Machine/Port.lean ====
section
/-! DEFINITION. The command port (R51): what the next presented word is, and a word placed there by the host. -/

namespace Sys2Proof.Machine

/-- R51, R58: the word the host presents next, and the state with it taken, when the block can accept one
(`BUSY = 0`); none when it cannot or when the host presents nothing. -/
def fetch (s : State) : Option (Cmd × State) :=
  if s.busy then none
  else
    match s.cmds with
    | [] => none
    | w :: rest => some (w, s.setCmds rest)

/-- Log 8: the word `w` presented next, to a block that can accept it; the bits of `w` from `nbits` up are 0. -/
def presentWord (s : State) (nbits w : Nat) : State :=
  { s with busy := false, cmds := BitVec.ofNat 64 (w % 2 ^ nbits) :: s.cmds }

end Sys2Proof.Machine
end

