-- ==== Sys2Proof/Machine/Step.lean ====
section
/-! DEFINITION. One step: the host presents its next word and the block executes it to its end (R51, R58). With
`BUSY = 1` a presented word is not accepted and has no effect; with nothing presented the block waits (R212). A step is a whole command (log 13). -/

namespace Sys2Proof.Machine

def step (s : State) : Host.Outcome State Fault Refusal :=
  match fetch s with
  | none => .next s
  | some (w, s') =>
    match decode w with
    | .ok i => exec i s'
    | .error _ => illegal s'

/-- The state whose next step runs the instruction whose table word is `w`. -/
def State.withFetchWord (s : State) (nbits w : Nat) : State := presentWord s nbits w

end Sys2Proof.Machine
end

