-- ==== Sys2Proof/Machine/Asm.lean ====
section
/-! DEFINITION. The textual form of commands (R80, R81): a line of characters to the command it stands for. What the
rules leave open of the text (blanks, letter case, the digits of a word operand) is log 12. -/

namespace Sys2Proof.Machine

/-! ### Characters -/

/-- The blanks that may stand around operands (log 12). -/
def isBlank (c : Char) : Bool := c == ' ' || c == '\t'

/-- A text without the blanks at its two ends. -/
def trim (l : List Char) : List Char := ((l.dropWhile isBlank).reverse.dropWhile isBlank).reverse

/-- R80: `;` starts a comment. -/
def stripComment (l : List Char) : List Char := l.takeWhile (· != ';')

/-- The texts between the commas of a text. -/
def splitCommas : List Char → List (List Char)
  | [] => [[]]
  | c :: cs =>
    if c = ',' then [] :: splitCommas cs
    else
      match splitCommas cs with
      | [] => [[c]]
      | f :: fs => (c :: f) :: fs

/-- A decimal digit. -/
def decimalDigit (c : Char) : Option Nat := if '0' ≤ c ∧ c ≤ '9' then some (c.toNat - 48) else none

/-- A hexadecimal digit. -/
def hexDigit (c : Char) : Option Nat :=
  if '0' ≤ c ∧ c ≤ '9' then some (c.toNat - 48)
  else if 'A' ≤ c ∧ c ≤ 'F' then some (c.toNat - 55)
  else if 'a' ≤ c ∧ c ≤ 'f' then some (c.toNat - 87)
  else none

/-- The value of a text of digits after `acc` was read of it. -/
def digitsFrom (base : Nat) (digit : Char → Option Nat) : Nat → List Char → Option Nat
  | acc, [] => some acc
  | acc, c :: cs =>
    match digit c with
    | some d => digitsFrom base digit (base * acc + d) cs
    | none => none

/-! ### Operands -/

/-- An unsigned decimal integer. -/
def readNat (l : List Char) : Option Nat := if l = [] then none else digitsFrom 10 decimalDigit 0 l

/-- R80: a signed decimal integer. -/
def readInt (l : List Char) : Option Int :=
  match l with
  | '-' :: r => (readNat r).map fun n => -(n : Int)
  | _ => (readNat l).map fun n => (n : Int)

/-- R80: a word operand, `0xhhhh`. -/
def readWord (l : List Char) : Option Word :=
  match l with
  | '0' :: 'x' :: r => if r.length = 4 then (digitsFrom 16 hexDigit 0 r).map (BitVec.ofNat 16) else none
  | _ => none

/-- All of a list of operands read as words. -/
def readWords : List (List Char) → Option (List Word)
  | [] => some []
  | l :: ls =>
    match readWord l, readWords ls with
    | some w, some ws => some (w :: ws)
    | _, _ => none

/-- R80: a frequency literal, the rational `num / den` hertz with `den > 0`. -/
structure HzLiteral where
  num : Int
  den : Nat
  deriving DecidableEq, Repr

/-- An unsigned decimal number with an optional fraction. -/
def readUnsignedHz (l : List Char) : Option HzLiteral :=
  match l.dropWhile (· != '.') with
  | [] => (readNat l).map fun n => ⟨n, 1⟩
  | _ :: frac =>
    match readNat (l.takeWhile (· != '.')), readNat frac with
    | some a, some b => some ⟨a * 10 ^ frac.length + b, 10 ^ frac.length⟩
    | _, _ => none

/-- R80: `hz`, a decimal number with an optional fraction and an optional sign. -/
def readHz (l : List Char) : Option HzLiteral :=
  match l with
  | '-' :: r => (readUnsignedHz r).map fun h => ⟨-h.num, h.den⟩
  | _ => readUnsignedHz l

/-- R80: `floor(hz * 2^16 + 1/2)`. -/
def hzFixed (hz : HzLiteral) : Int := (2 * hz.num * 2 ^ 16 + hz.den) / (2 * (hz.den : Int))

/-- R73 to R75, R80: an integer that fits `n` signed bits. -/
def fitSigned (n : Nat) (v : Int) : Option (BitVec n) :=
  if -(2 ^ (n - 1) : Int) ≤ v ∧ v < (2 ^ (n - 1) : Int) then some (BitVec.ofInt n v) else none

/-- R80: a signed decimal operand of `n` bits. -/
def readSigned (n : Nat) (l : List Char) : Option (BitVec n) :=
  match readInt l with
  | some v => fitSigned n v
  | none => none

/-- R80: the frequency operand of AD.SETFREQ. -/
def readFreq (l : List Char) : Option (BitVec 48) :=
  match readHz l with
  | some hz => fitSigned 48 (hzFixed hz)
  | none => none

/-- R80: `cpol, cpha in {0,1}`. -/
def readBit (l : List Char) : Option Bool :=
  if l = "0".toList then some false else if l = "1".toList then some true else none

/-- R80: `order in {MSB, LSB}`, read as `LSBF`. -/
def readOrder (l : List Char) : Option Bool :=
  if l = "MSB".toList then some false else if l = "LSB".toList then some true else none

/-- R81: the pair `(cpol, cpha)` a profile name stands for. -/
def readModeName (l : List Char) : Option (Bool × Bool) :=
  if l = "MODE0".toList then some (false, false)
  else if l = "MODE1".toList then some (false, true)
  else if l = "MODE2".toList then some (true, false)
  else if l = "MODE3".toList then some (true, true)
  else none

/-- R80, R81: the operands `cpol, cpha, order`, or a profile name and `order`, and the operands after them. -/
def readProfile : List (List Char) → Option (Profile × List (List Char))
  | a :: b :: rest =>
    match readModeName a, readOrder b with
    | some (cpol, cpha), some lsbf => some (⟨cpol, cpha, lsbf⟩, rest)
    | none, none =>
      match readBit a, readBit b, rest with
      | some cpol, some cpha, o :: rest' => (readOrder o).map fun lsbf => (⟨cpol, cpha, lsbf⟩, rest')
      | _, _, _ => none
    | _, _ => none
  | _ => none

/-- R80: `cs in {0,1,2}`. -/
def readChan (l : List Char) : Option Chan :=
  if l = "0".toList then some .cs0
  else if l = "1".toList then some .cs1
  else if l = "2".toList then some .cs2
  else none

/-- R80: the five mode names. -/
def readMode (l : List Char) : Option Mode :=
  if l = "SINE".toList then some .sine
  else if l = "TRIANGLE".toList then some .triangle
  else if l = "SQUARE_HALF".toList then some .squareHalf
  else if l = "SQUARE_FULL".toList then some .squareFull
  else if l = "OFF".toList then some .off
  else none

/-! ### Lines -/

/-- R80: a command without operands. -/
def assembleN (i : Instr) : List (List Char) → Option Instr
  | [] => some i
  | _ => none

/-- R80: a command with one operand. -/
def assemble1 {α : Type} (read : List Char → Option α) (mk : α → Instr) : List (List Char) → Option Instr
  | [l] => (read l).map mk
  | _ => none

/-- R80: the operands of CFGIDLE. -/
def assembleCfgIdle (ops : List (List Char)) : Option Instr :=
  match readProfile ops with
  | some (p, []) => some (.cfgIdle p)
  | _ => none

/-- R80: the operands of XFER; the count is the number of words. -/
def assembleXfer : List (List Char) → Option Instr
  | [] => none
  | c :: ops =>
    match readChan c, readProfile ops with
    | some c, some (p, ls) =>
      match readWords ls with
      | some ws => if (Instr.xfer c p ws).wf then some (.xfer c p ws) else none
      | none => none
    | _, _ => none

/-- R80: the operands of AD.SETFREQ. -/
def assembleSetFreq : List (List Char) → Option Instr
  | [ch, hz] =>
    match readSigned 8 ch, readFreq hz with
    | some ch, some f => some (.adSetFreq ch f)
    | _, _ => none
  | _ => none

/-- R80: a mnemonic and its operands. -/
def assembleWords (m : List Char) (ops : List (List Char)) : Option Instr :=
  if m = "CFGIDLE".toList then assembleCfgIdle ops
  else if m = "XFER".toList then assembleXfer ops
  else if m = "AD.ATTACH".toList then assembleN .adAttach ops
  else if m = "AD.DETACH".toList then assembleN .adDetach ops
  else if m = "AD.SETCS".toList then assemble1 (readSigned 32) .adSetCs ops
  else if m = "AD.BEGIN".toList then assembleN .adBegin ops
  else if m = "AD.RESET".toList then assembleN .adReset ops
  else if m = "AD.SETFREQ".toList then assembleSetFreq ops
  else if m = "AD.SETACT".toList then assemble1 (readSigned 8) .adSetAct ops
  else if m = "AD.SETMODE".toList then assemble1 readMode .adSetMode ops
  else if m = "AD.SHUTDOWN".toList then assembleN .adShutdown ops
  else if m = "MCP.ATTACH".toList then assembleN .mcpAttach ops
  else if m = "MCP.DETACH".toList then assembleN .mcpDetach ops
  else if m = "MCP.SETCS".toList then assemble1 (readSigned 32) .mcpSetCs ops
  else if m = "MCP.WRITE".toList then assemble1 (readSigned 32) .mcpWrite ops
  else none

/-- R80: what one line of text is. -/
inductive Line
  /-- Nothing but blanks and a comment. -/
  | blank
  /-- One command. -/
  | command (i : Instr)
  /-- Neither. -/
  | malformed
  deriving DecidableEq, Repr

/-- R80: one line: a mnemonic, then its operands with commas between them; `;` starts a comment. -/
def assembleLine (line : List Char) : Line :=
  let l := trim (stripComment line)
  let ops := trim (l.dropWhile fun c => !isBlank c)
  if l = [] then .blank
  else
    match assembleWords (l.takeWhile fun c => !isBlank c) (if ops = [] then [] else (splitCommas ops).map trim) with
    | some i => .command i
    | none => .malformed

/-- R80: a program, the command words of its lines in the order the host presents them; none if a line is malformed. -/
def assembleProgram : List (List Char) → Option (List Cmd)
  | [] => some []
  | l :: ls =>
    match assembleLine l, assembleProgram ls with
    | .command i, some ws => some (encode i :: ws)
    | .blank, some ws => some ws
    | _, _ => none

end Sys2Proof.Machine
end

