-- ==== Sys2Proof/Machine/View.lean ====
section
/-! DEFINITION. What the host can read of the block: the read-only view (R35), the driver states (R33, R205), and the
levels of the adapter's pins as far as they are known (R37, U6, U10). Reads have no side effect: they are functions
of the state. With `BUSY = 1` (an adapter or delay that has not answered) they show the state between two events. -/

namespace Sys2Proof.Machine

/-- One bit of a view register at position `pos`. -/
def viewBit (pos : Nat) (b : Bool) : Word := if b then 1#16 <<< pos else 0#16

/-- R35: the view registers 0 `V_STATUS`, 1 `V_LINE`, 2 `V_ADCTRL`, 3 `V_AD`, 4 `V_MCP`; there is no other number.
The width, 16, is that of the widest of them (log 7). -/
def viewReg (n : Nat) (s : State) : Option Word :=
  match n with
  | 0 => some (s.status.code.setWidth 16 ||| viewBit 3 s.busy ||| viewBit 4 s.busOk)
  | 1 => some ((pack s.cfg s.lines).setWidth 16)
  | 2 => some s.ad.ctrl
  | 3 => some (viewBit 0 s.ad.att ||| viewBit 1 s.ad.rst ||| (s.ad.cs.toBits.setWidth 16 <<< 2))
  | 4 => some (viewBit 0 s.mcp.att ||| (s.mcp.cs.toBits.setWidth 16 <<< 2))
  | _ => none

/-- R33: the states of the source's AD9833 state machine. -/
inductive AdState
  | unattached
  | idle
  | resetting
  deriving DecidableEq, Repr

/-- R33: the AD9833 driver's state, a function of `AD_ATT` and `AD_RST`. -/
def adState (s : State) : AdState :=
  if s.ad.att then (if s.ad.rst then .resetting else .idle) else .unattached

/-- R37: whether the last request was answered with success, as far as the state tells. Between commands `BUS_OK` says
so. In a command that has not ended (U9) it is so while a delay is pending, since a delay follows only an answered
request. -/
def lastRequestSucceeded (s : State) : Bool :=
  if s.busy then
    match s.trace.getLast? with
    | some (.dly _) => true
    | _ => false
  else s.busOk

/-- R37, R55, U6, U10: the levels on the adapter's pins, as far as they are known: those of the line registers while the
last request was answered with success, else unknown. While a request has not been answered (`BUSY = 1`, U9) R65 leaves
open whether the adapter has applied it: unknown is the model's choice there (DESIGN CHOICE, log 16). R37 speaks of the
five lines only: that a pin which is no line has the level of its bit of `Pack()`, 0, and that a line has its register's
level also where `DIR_MASK` or `EN_MASK` does not select it, are the model's choices too (R53 and U11 leave both to the
adapter; DESIGN CHOICE, log 16). -/
def pins (s : State) : Option LineState := if lastRequestSucceeded s then some (pack s.cfg s.lines) else none

end Sys2Proof.Machine
end

