-- ==== Sys2Proof/Machine/Frame.lean ====
section
/-! DEFINITION. What a transfer puts on the lines, written by bit slot and not by shifter (R103, R104), what a receiving
chip makes of line states (`FrameDecode`, R110), and the least time a trace takes (R56, R114). No meaning uses these:
they are what statements about transfers are made of. -/

namespace Sys2Proof.Machine

/-! ### The line levels of a transfer -/

/-- R104: the three levels of the lines in one bit slot that presents `b`, entered with the lines at `l`. -/
def slotLevels (p : Profile) (l : Lines) (b : Bool) : List Lines :=
  if p.cpha then
    [{ l with sck := activeLevel p }, { l with sck := activeLevel p, sdo := b }, { l with sck := idleLevel p, sdo := b }]
  else
    [{ l with sdo := b }, { l with sck := activeLevel p, sdo := b }, { l with sck := idleLevel p, sdo := b }]

/-- R104: the levels of consecutive bit slots. -/
def slotsLevels (p : Profile) : Lines → List Bool → List Lines
  | _, [] => []
  | l, b :: bs => slotLevels p l b ++ slotsLevels p { l with sck := idleLevel p, sdo := b } bs

/-- R103: the sixteen bits of a word in the order of their slots. -/
def wordBits (w : Word) (lsbf : Bool) : List Bool := (List.range 16).map fun j => slotBit w j lsbf

/-- R104: the lines after a whole word: only the clock (at `I`), the data line (at `SDO_IDLE`) and `CS[c]` (high) may
differ from the lines before it. -/
def wordEnd (cfg : Config) (c : Chan) (p : Profile) (l : Lines) : Lines :=
  { l.setCs c true with sck := idleLevel p, sdo := cfg.sdoIdle }

/-- R104: the 51 levels of one word, entered with the lines at `l`. -/
def wordLevels (cfg : Config) (c : Chan) (p : Profile) (l : Lines) (w : Word) : List Lines :=
  [l.setCs c false] ++ slotsLevels p (l.setCs c false) (wordBits w p.lsbf) ++
    [{ l.setCs c true with sck := idleLevel p, sdo := slotBit w 15 p.lsbf }, wordEnd cfg c p l]

/-- R107: the levels of the words of a transfer, word 0 first. -/
def wordsLevels (cfg : Config) (c : Chan) (p : Profile) : Lines → List Word → List Lines
  | _, [] => []
  | l, w :: ws => wordLevels cfg c p l w ++ wordsLevels cfg c p (wordEnd cfg c p l) ws

/-- R102: the two events of one `Step()` that sends the levels `l`. -/
def levelEvents (cfg : Config) (l : Lines) : List Event := [.drv cfg.dirMask (pack cfg l), .dly cfg.tBitUs]

/-- R102, R104: the events of a sequence of levels. -/
def levelsEvents (cfg : Config) (ls : List Lines) : List Event := ls.flatMap (levelEvents cfg)

/-- The state after the levels `ls` were sent one by one, every request answered with success and every delay ended:
the line registers hold the last of them, the trace has their events, one answer and one wait were used for each. -/
def State.played (s : State) (ls : List Lines) : State :=
  { s with
    lines := ls.getLastD s.lines
    trace := s.trace ++ levelsEvents s.cfg ls
    answers := s.answers.drop ls.length
    waits := s.waits.drop ls.length }

/-- The `Step()`s that send the levels `ls` one by one (R102), whatever the adapter answers. -/
def sendLevels : List Lines → State → Run
  | [], s => .go s
  | l :: ls, s => (stepLines l s).andThen (sendLevels ls)

/-- R36: the shifter after a whole transfer of `n` words: all bits shifted out, the index of the last word. -/
def shifterDone (n : Nat) : Shifter := { shreg := 0#16, bitcnt := 16#5, widx := BitVec.ofNat 2 (n - 1) }

/-- R104, R107: the state after a successful transfer of the non-empty list `ws`. -/
def State.sent (s : State) (c : Chan) (p : Profile) (ws : List Word) : State :=
  (s.played (wordsLevels s.cfg c p s.lines ws)).setShifter (shifterDone ws.length)

/-- R106: the state after an idle configuration with profile `p` that the adapter accepts. -/
def State.idled (s : State) (p : Profile) : State :=
  { s with
    lines := Lines.idle s.cfg p.cpol
    busOk := true
    trace := s.trace ++
      [.cfg s.cfg.enMask s.cfg.dirMask (pack s.cfg (Lines.idle s.cfg p.cpol)), .dly s.cfg.tSettleUs]
    answers := s.answers.drop 1
    waits := s.waits.drop 1 }

/-- R106, R55: the state after an idle configuration the adapter rejects: no delay, `BUS_OK` clear, the line registers
as requested. -/
def State.idleRejected (s : State) (p : Profile) : State :=
  { s with
    lines := Lines.idle s.cfg p.cpol
    busOk := false
    trace := s.trace ++ [.cfg s.cfg.enMask s.cfg.dirMask (pack s.cfg (Lines.idle s.cfg p.cpol))]
    answers := s.answers.drop 1 }

/-- R56: the state after a delay of `n` microseconds that ends. -/
def State.waited (s : State) (n : Nat) : State :=
  { s with trace := s.trace ++ [.dly n], waits := s.waits.drop 1 }

/-- R136, R137: the image becomes `v` and is sent, with success. -/
def State.sentCtrl (s : State) (v : Word) : State := (s.setAdCtrl v).sent s.ad.cs s.cfg.adProfile [v]

/-- R137: the state after a whole reset sequence: the image with `RESET` set is sent, `AD_RST` is 1 for the hold, the
image with `RESET` clear is sent, `AD_RST` is 0. -/
def State.resetDone (s : State) : State :=
  let set := ctrlPut s.cfg.ctrl .reset true s.ad.ctrl
  (((((s.sentCtrl set).setAdRst true).waited s.cfg.tResetUs).sentCtrl
    (ctrlPut s.cfg.ctrl .reset false set))).setAdRst false

/-! ### What a chip receives -/

/-- The level at one position of a line state. -/
def levelAt (pos : Fin 8) (st : LineState) : Bool := st.getLsbD pos.val

/-- R105, R110: whether a clock edge that starts at level `sck` is a sampling edge. -/
def samplesOn (cpol cpha sck : Bool) : Bool := if cpha then sck != cpol else sck == cpol

/-- R110: the loop of `FrameDecode`, with `prev` the state before and `cur` the bits of the open frame. -/
def frameLoop (cfg : Config) (c : Chan) (cpol cpha : Bool) :
    LineState → Option (List Bool) → List LineState → List (List Bool)
  | _, _, [] => []
  | prev, cur, st :: rest =>
    if levelAt (csBit cfg c) prev && !levelAt (csBit cfg c) st then
      frameLoop cfg c cpol cpha st (some []) rest
    else if !levelAt (csBit cfg c) prev && levelAt (csBit cfg c) st then
      cur.toList ++ frameLoop cfg c cpol cpha st none rest
    else if !levelAt (csBit cfg c) st && levelAt cfg.sckBit prev != levelAt cfg.sckBit st &&
        samplesOn cpol cpha (levelAt cfg.sckBit prev) then
      frameLoop cfg c cpol cpha st (cur.map fun bits => bits ++ [levelAt cfg.sdoBit prev]) rest
    else frameLoop cfg c cpol cpha st cur rest

/-- R110: `FrameDecode(S, c, CPOL, CPHA)`. -/
def frameDecode (cfg : Config) (ss : List LineState) (c : Chan) (cpol cpha : Bool) : List (List Bool) :=
  match ss with
  | [] => []
  | s0 :: rest => frameLoop cfg c cpol cpha s0 none rest

/-- R110: the line states of the `CFG` and `DRV` events of a trace, in order. -/
def eventStates (es : List Event) : List LineState :=
  es.filterMap fun
    | .cfg _ _ st => some st
    | .drv _ st => some st
    | .dly _ => none

/-- R110: the word a frame of exactly sixteen bits denotes: `w[15-j] = d_j`, or `w[j] = d_j` least significant
first. -/
def frameWord (lsbf : Bool) (bits : List Bool) : Option Word :=
  if bits.length = 16 then
    some (if lsbf then BitVec.setWidth 16 (BitVec.ofBoolListLE bits) else BitVec.setWidth 16 (BitVec.ofBoolListBE bits))
  else none

/-! ### Time -/

/-- R56, R236: the least time in microseconds the delays of a trace take. -/
def minDelay (es : List Event) : Nat :=
  (es.map fun
    | .dly n => n
    | _ => 0).sum

/-- R236: the number of `CFG` events of a trace. -/
def countCfg (es : List Event) : Nat := es.countP fun | .cfg _ _ _ => true | _ => false

/-- R236: the number of `DRV` events of a trace. -/
def countDrv (es : List Event) : Nat := es.countP fun | .drv _ _ => true | _ => false

end Sys2Proof.Machine
end

