-- ==== Sys2Proof/Safety.lean ====
section
/-! DEFINITION. What counts as a good state (R28, R36, R38, invariant (a) of the source) and as a good environment
(R236: every request answered, every delay ended), in the terms statements use. -/

namespace Sys2Proof.Machine

/-- Invariant (a): at most one chip-select is asserted (low). -/
def Lines.atMostOneLow (l : Lines) : Bool := (l.cs0 || l.cs1) && (l.cs0 || l.cs2) && (l.cs1 || l.cs2)

/-- R38: no chip-select is asserted. -/
def Lines.noneLow (l : Lines) : Bool := l.cs0 && l.cs1 && l.cs2

/-- Invariant (a) of a line state as the adapter receives it. -/
def levelAtMostOneLow (cfg : Config) (st : LineState) : Bool :=
  (levelAt cfg.cs0Bit st || levelAt cfg.cs1Bit st) && (levelAt cfg.cs0Bit st || levelAt cfg.cs2Bit st) &&
    (levelAt cfg.cs1Bit st || levelAt cfg.cs2Bit st)

/-- R28: the bits of `AD_CTRL` that some command writes. -/
def ctrlWritable (cfg : Config) : Word :=
  ctrlBit cfg.ctrl .b28 ||| ctrlBit cfg.ctrl .fselect ||| ctrlBit cfg.ctrl .reset ||| cfg.modes.mask

/-- R28: the legal values of `AD_CTRL`: no other bit is set, and the mode field holds one of the five encodings. -/
def legalCtrl (cfg : Config) (v : Word) : Prop :=
  v &&& ~~~(ctrlWritable cfg) = 0#16 ∧ ∃ m, v &&& cfg.modes.mask = modeBits cfg.modes m

/-- The invariant of the block (R28, R36, R38, invariant (a)), in a configuration as R6 asks. -/
structure Inv (s : State) : Prop where
  /-- R6: the configuration is one. -/
  cfg_wf : s.cfg.wf = true
  /-- Invariant (a): at most one chip-select is asserted at any instant. -/
  one_low : s.lines.atMostOneLow = true
  /-- R38: between commands on a good bus no chip-select is asserted and the data line is idle. -/
  lines_idle : s.busy = false → s.busOk = true → s.lines.noneLow = true ∧ s.lines.sdo = s.cfg.sdoIdle
  /-- R38: an unattached AD9833 driver has a clear image and is not resetting. -/
  unattached : s.ad.att = false → s.ad.ctrl = 0#16 ∧ s.ad.rst = false
  /-- R28. -/
  ctrl_legal : legalCtrl s.cfg s.ad.ctrl
  /-- R36: `BITCNT` is 0 to 16. -/
  bitcnt_le : s.shifter.bitcnt.toNat ≤ 16
  /-- Invariant (a) at every request of the trace. -/
  trace_one_low : ∀ st ∈ eventStates s.trace, levelAtMostOneLow s.cfg st = true

/-- R236, U9: the next `n` requests are answered with success and the next `m` delays end. -/
def State.portsReady (s : State) (n m : Nat) : Prop :=
  (∀ a ∈ s.answers.take n, a = .success) ∧ ∀ w ∈ s.waits.take m, w = .elapsed

/-- R196: the statuses a well-formed command can end with. -/
def endStatuses : Instr → List Status
  | .cfgIdle _ => [.ok, .gpioFault]
  | .xfer _ _ _ => [.ok, .gpioFault]
  | .adAttach => [.ok, .gpioFault]
  | .adDetach => [.ok]
  | .adSetCs _ => [.ok]
  | .adBegin => [.ok, .deviceNotAttached, .gpioFault]
  | .adReset => [.ok, .deviceNotAttached, .gpioFault]
  | .adSetFreq _ _ => [.ok, .deviceNotAttached, .invalidArgument, .gpioFault]
  | .adSetAct _ => [.ok, .deviceNotAttached, .invalidArgument, .gpioFault]
  | .adSetMode _ => [.ok, .deviceNotAttached, .gpioFault]
  | .adShutdown => [.ok, .deviceNotAttached, .gpioFault]
  | .mcpAttach => [.ok, .gpioFault]
  | .mcpDetach => [.ok]
  | .mcpSetCs _ => [.ok]
  | .mcpWrite _ => [.ok, .deviceNotAttached, .gpioFault]

/-- R55: the adapter answers success to the next `k` requests and failure to the one after; the delays up to
there, at most `k + 1`, end. -/
def State.failsAt (s : State) (k : Nat) : Prop :=
  s.answers[k]? = some .failure ∧ s.portsReady k (k + 1)

end Sys2Proof.Machine
end

