-- ==== Sys2Proof/Certificates/Slice0/Obligations.lean ====
section
/-! DEFINITION. The statements for the provers. Each docstring names the rule of spec/ it formalises. -/

open Sys2Proof Sys2Proof.Machine

/-! ### Encoding -/

/-- R82 (with R80): the worked encodings: each text assembles to its command, which encodes to its word, which decodes
to it. -/
def Obligations.WorkedEncodings : Prop :=
  ∀ row ∈ ([("CFGIDLE 1, 0, MSB", .cfgIdle ⟨true, false, false⟩, 0x0101000000000000#64),
      ("CFGIDLE 0, 0, MSB", .cfgIdle ⟨false, false, false⟩, 0x0100000000000000#64),
      ("XFER 1, 0, 0, MSB, 0x11FF", .xfer .cs1 ⟨false, false, false⟩ [0x11FF#16], 0x02280000000011FF#64),
      ("XFER 0, 1, 0, MSB, 0x2000, 0x69F1, 0x4000",
        .xfer .cs0 ⟨true, false, false⟩ [0x2000#16, 0x69F1#16, 0x4000#16], 0x0261400069F12000#64),
      ("XFER 2, 0, 1, LSB, 0xA5C3", .xfer .cs2 ⟨false, true, true⟩ [0xA5C3#16], 0x023600000000A5C3#64),
      ("AD.ATTACH", .adAttach, 0x1000000000000000#64), ("AD.SETCS 2", .adSetCs 2#32, 0x1200000000000002#64),
      ("AD.SETCS -1", .adSetCs (-1#32), 0x12000000FFFFFFFF#64)] ++
     [("AD.SETFREQ 0, 1000.0", .adSetFreq 0#8 65536000#48, 0x1500000003E80000#64),
      ("AD.SETFREQ 2, 1000.0", .adSetFreq 2#8 65536000#48, 0x1502000003E80000#64),
      ("AD.SETFREQ 1, -1.0", .adSetFreq 1#8 (-65536#48), 0x1501FFFFFFFF0000#64),
      ("AD.SETACT 1", .adSetAct 1#8, 0x1601000000000000#64),
      ("AD.SETMODE TRIANGLE", .adSetMode .triangle, 0x1701000000000000#64),
      ("AD.SETMODE OFF", .adSetMode .off, 0x1704000000000000#64),
      ("MCP.WRITE 300", .mcpWrite 300#32, 0x230000000000012C#64),
      ("MCP.WRITE -5", .mcpWrite (-5#32), 0x23000000FFFFFFFB#64)] : List (String × Instr × Cmd)),
    assembleLine row.1.toList = .command row.2.1 ∧ encode row.2.1 = row.2.2 ∧ decode row.2.2 = .ok row.2.1

/-- R72, R78: no command word matches two rows of the opcode map. -/
def Obligations.OpcodeRowsDisjoint : Prop :=
  ∀ w : Cmd, (opcodeRows.filter fun r => w &&& r.2 == r.1).length ≤ 1

/-- R77: a command word is illegal exactly when its opcode is unassigned, a must-be-zero bit is 1 (both: no row of the
map matches), or it is an XFER with `CHAN2 = 3` or `CNT2 = 0`, or an AD.SETMODE with `MODE3` in 5..7. -/
def Obligations.IllegalWords : Prop :=
  ∀ w : Cmd, (∃ e, decode w = .error e) ↔
    (∀ r ∈ opcodeRows, w &&& r.2 ≠ r.1) ∨
      (opc w = 0x02#8 ∧ field 2 51 w = 3#2) ∨ (opc w = 0x02#8 ∧ field 2 53 w = 0#2) ∨
      (opc w = 0x17#8 ∧ 5 ≤ (field 3 48 w).toNat)

/-- R70 to R76: decoding the encoding of any well-formed command gives the command back. -/
def Obligations.DecodeOfEncode : Prop := ∀ i : Instr, i.wf = true → decode (encode i) = .ok i

/-- R70 to R77: what decodes is well formed, and its encoding is the word itself but for the XFER words that R75 says
are ignored. -/
def Obligations.EncodeOfDecode : Prop :=
  ∀ (w : Cmd) (i : Instr), decode w = .ok i → i.wf = true ∧ encode i = w &&& usedBits w

/-- R80: a frequency literal is the nearest multiple of `2^-16` hertz, a tie going up. -/
def Obligations.FrequencyLiteralIsNearest : Prop :=
  ∀ hz : HzLiteral, 0 < hz.den → hzFixed hz = ⌊(hz.num : ℚ) / hz.den * 2 ^ 16 + 1 / 2⌋

/-! ### The step and the command port -/

/-- R51, R58: the step runs the decoded command at the state with the word taken from the host's queue; a word placed
by the host's loader is that word. -/
def Obligations.StepRunsDecoded : Prop :=
  (∀ (s : State) (w : Cmd) (rest : List Cmd) (i : Instr), s.busy = false → s.cmds = w :: rest → decode w = .ok i →
    step s = exec i (s.setCmds rest)) ∧
  ∀ (s : State) (n w : Nat) (i : Instr), decodeTableWord n w = some i →
    step (s.withFetchWord n w) = exec i { s with busy := false }

/-- R195: an illegal command word ends with `IllegalCommand`; no other register changes and no event is issued. -/
def Obligations.IllegalWordRaises : Prop :=
  ∀ (s : State) (w : Cmd) (rest : List Cmd) (e : Reject), s.busy = false → s.cmds = w :: rest → decode w = .error e →
    step s = .next ((s.setCmds rest).close .illegalCommand)

/-- R51, R212: a word presented to a busy block has no effect, and with nothing presented the block keeps its state. -/
def Obligations.BusyOrIdleBlockKeepsState : Prop :=
  ∀ s : State, s.busy = true ∨ s.cmds = [] → step s = .next s

/-- R42: the registers after hardware reset, for every configuration, and the two reset channels of the default one
(`SHREG`, `BITCNT`, `WIDX`, which the rule leaves unspecified, apart). -/
def Obligations.ResetValues : Prop :=
  (∀ cfg : Config, let s := State.resetWith cfg
    s.lines = { cs0 := true, cs1 := true, cs2 := true, sck := false, sdo := false } ∧ s.busOk = false ∧
    s.ad = { att := false, rst := false, cs := cfg.adCsReset, ctrl := 0x0000#16 } ∧
    s.mcp = { att := false, cs := cfg.mcpCsReset } ∧ s.status = .ok ∧ s.busy = false ∧ s.trace = []) ∧
  State.reset = State.resetWith Config.default ∧ State.reset.ad.cs = .cs0 ∧ State.reset.mcp.cs = .cs1

/-! ### Registers that no bus is needed for -/

/-- R139: AD.SETCS writes the index where it is 0, 1 or 2 and 0 where it is not; nothing else changes but the status,
attached or not, and no event is issued. -/
def Obligations.AdSetCsResult : Prop :=
  ∀ (imm : BitVec 32) (s : State) (c : Chan),
    (imm.toInt = c.toBits.toNat ∨ (c = .cs0 ∧ ¬(0 ≤ imm.toInt ∧ imm.toInt ≤ 2))) →
    exec (.adSetCs imm) s = .next ((s.setAdCs c).close .ok)

/-- R174: MCP.SETCS writes the index where it is 0, 1 or 2, and 0 where it is not (decision D30, U15: log 11); nothing
else changes but the status, attached or not, and no event is issued. -/
def Obligations.McpSetCsResult : Prop :=
  ∀ (imm : BitVec 32) (s : State) (c : Chan),
    (imm.toInt = c.toBits.toNat ∨ (c = .cs0 ∧ ¬(0 ≤ imm.toInt ∧ imm.toInt ≤ 2))) →
    exec (.mcpSetCs imm) s = .next ((s.setMcpCs c).close .ok)

/-- R147, R173: detach clears the driver's registers of the rule and nothing else, without an event; a second detach
has no further effect. -/
def Obligations.DetachResult : Prop :=
  ∀ s : State,
    let t : State := ({ s with ad := { att := false, rst := false, cs := s.ad.cs, ctrl := 0x0000#16 } }).close .ok
    let u : State := ({ s with mcp := { att := false, cs := s.mcp.cs } }).close .ok
    exec .adDetach s = .next t ∧ exec .adDetach t = .next (t.close .ok) ∧
    exec .mcpDetach s = .next u ∧ exec .mcpDetach u = .next (u.close .ok)

/-! ### The SPI engine -/

/-- R106: CFGIDLE drives the idle levels in one `configureOutput`, waits and sets `BUS_OK`; a rejected configuration
clears `BUS_OK`, has no delay and ends with `GpioFault`. -/
def Obligations.CfgIdleResult : Prop :=
  ∀ (p : Profile) (s : State), profileAllowed s.cfg p = true →
    (s.portsReady 1 1 → exec (.cfgIdle p) s = .next ((s.idled p).close .ok)) ∧
    (s.answers.head? = some .failure → exec (.cfgIdle p) s = .next ((s.idleRejected p).close .gpioFault))

/-- R104, R107, R109: a successful XFER sends its words one after the other, each as the 51 levels of R104, changes the
line registers and the shifter as they do, and changes nothing else. With `LSBF = 1` and `ALLOW_LSBF` off what is sent
of a word is free (`sentWord`: U2, log 20). -/
def Obligations.XferResult : Prop :=
  ∀ (c : Chan) (p : Profile) (ws : List Word) (s : State), (Instr.xfer c p ws).legalIn s.cfg = true →
    profileAllowed s.cfg p = true → s.busOk = true → s.portsReady (51 * ws.length) (51 * ws.length) →
    exec (.xfer c p ws) s = .next ((s.sent c p (ws.map (sentWord s.cfg p))).close .ok)

/-- R108: the adapter fails request `k` of an XFER: nothing follows it, the line registers hold the failed request,
`BUS_OK` is 0, the status is `GpioFault`, and a further transfer ends so without an event (what is sent of a word with
`LSBF = 1` is free where `ALLOW_LSBF` is off: log 20). -/
def Obligations.XferFailure : Prop :=
  ∀ (c : Chan) (p : Profile) (ws : List Word) (s : State) (k : Nat) (l : Lines),
    (Instr.xfer c p ws).legalIn s.cfg = true →
    profileAllowed s.cfg p = true → s.busOk = true → s.failsAt k →
    (wordsLevels s.cfg c p s.lines (ws.map (sentWord s.cfg p)))[k]? = some l →
    ∃ t, exec (.xfer c p ws) s = .next t ∧
      t.trace = s.trace ++
        levelsEvents s.cfg ((wordsLevels s.cfg c p s.lines (ws.map (sentWord s.cfg p))).take k) ++
        [.drv s.cfg.dirMask (pack s.cfg l)] ∧
      t.lines = l ∧ t.busOk = false ∧ t.status = .gpioFault ∧ t.busy = false ∧
      t.replies = s.replies ++ [.gpioFault] ∧ t.ad = s.ad ∧ t.mcp = s.mcp ∧ t.cfg = s.cfg ∧ t.cmds = s.cmds ∧
      exec (.xfer c p ws) t = .next (t.close .gpioFault)

/-- R22: `Pack()` carries each line at its position and 0 everywhere else. -/
def Obligations.PackBits : Prop :=
  ∀ (cfg : Config) (l : Lines), cfg.linesDistinct = true →
    levelAt cfg.cs0Bit (pack cfg l) = l.cs0 ∧ levelAt cfg.cs1Bit (pack cfg l) = l.cs1 ∧
    levelAt cfg.cs2Bit (pack cfg l) = l.cs2 ∧ levelAt cfg.sckBit (pack cfg l) = l.sck ∧
    levelAt cfg.sdoBit (pack cfg l) = l.sdo ∧
    ∀ i : Fin 8, i ∉ [cfg.cs0Bit, cfg.cs1Bit, cfg.cs2Bit, cfg.sckBit, cfg.sdoBit] →
      levelAt i (pack cfg l) = false

/-- R36, R103: the shifter, loaded with a word and advanced `j` times, presents the bit of slot `j`, and after sixteen
bits `BITCNT` is 16. -/
def Obligations.ShifterPresentsSlots : Prop :=
  ∀ (w : Word) (k j : Nat) (lsbf : Bool),
    (j < 16 → ((fun sh => Shifter.advance sh lsbf)^[j] (Shifter.load w k)).out lsbf = slotBit w j lsbf) ∧
    ((fun sh => Shifter.advance sh lsbf)^[16] (Shifter.load w k)).bitcnt = 16#5

/-- R62: every write of a transfer differs from the one before it in at most one line. -/
def Obligations.OneLineMovesAtATime : Prop :=
  ∀ (cfg : Config) (c : Chan) (p : Profile) (l : Lines) (ws : List Word) (k : Nat) (a b : Lines),
    (l :: wordsLevels cfg c p l ws)[k]? = some a → (l :: wordsLevels cfg c p l ws)[k + 1]? = some b →
    ([a.cs0 != b.cs0, a.cs1 != b.cs1, a.cs2 != b.cs2, a.sck != b.sck, a.sdo != b.sdo].count true) ≤ 1

/-- R111 (a), (c): a successful XFER that finds the clock at its profile's idle level delivers exactly its words on its
channel, in its bit order, and nothing on another channel. For every configuration of R6; that no chip-select is
asserted at entry is R38, here by `Inv`. With `LSBF = 1` and `ALLOW_LSBF` off it delivers as many words, and which they
are is free (U2, log 20). -/
def Obligations.XferDeliversWords : Prop :=
  ∀ (c : Chan) (p : Profile) (ws : List Word) (s : State), Inv s → s.busy = false →
    (Instr.xfer c p ws).legalIn s.cfg = true →
    profileAllowed s.cfg p = true → s.busOk = true → s.portsReady (51 * ws.length) (51 * ws.length) →
    s.lines.sck = p.cpol →
    ∃ t es, exec (.xfer c p ws) s = .next t ∧ t.trace = s.trace ++ es ∧
      (let frames := (frameDecode s.cfg (pack s.cfg s.lines :: eventStates es) c p.cpol p.cpha).map (frameWord p.lsbf)
      frames = (ws.map (sentWord s.cfg p)).map some ∧ (p.lsbf = false ∨ s.cfg.allowLsbf = true → frames = ws.map some)) ∧
      ∀ c', c' ≠ c → ∀ cpol cpha, frameDecode s.cfg (pack s.cfg s.lines :: eventStates es) c' cpol cpha = []

/-- R111 (b), (d), (e): during a transfer only the selected chip-select is ever low; the data line does not move
between the write before a sampling edge and the write after it; at the end all chip-selects are high, the clock is
at its idle level and the data line at `SDO_IDLE`. -/
def Obligations.TransferKeepsTheBus : Prop :=
  ∀ (cfg : Config) (c : Chan) (p : Profile) (l : Lines) (ws : List Word), l.noneLow = true → l.sck = p.cpol →
    ws ≠ [] →
    (∀ m ∈ wordsLevels cfg c p l ws, ∀ c', c' ≠ c → m.cs c' = true) ∧
    (∀ (k : Nat) (a b d : Lines), (l :: wordsLevels cfg c p l ws)[k]? = some a →
      (l :: wordsLevels cfg c p l ws)[k + 1]? = some b → (l :: wordsLevels cfg c p l ws)[k + 2]? = some d →
      a.sck ≠ b.sck → samplesOn p.cpol p.cpha a.sck = true → a.sdo = b.sdo ∧ b.sdo = d.sdo) ∧
    (wordsLevels cfg c p l ws).getLast? =
      some { cs0 := true, cs1 := true, cs2 := true, sck := p.cpol, sdo := cfg.sdoIdle }

/-- R112: a word sent with the clock at the other level at entry: with `CPHA = 0` the chip samples fifteen bits and
misses the first; with `CPHA = 1` it samples all sixteen, its chip-select having fallen with the clock active (this
clause rests on U1: log 3). The clock ends at the profile's idle level. -/
def Obligations.WrongClockLevelMissesFirstBit : Prop :=
  ∀ (cfg : Config) (c : Chan) (p : Profile) (l : Lines) (w : Word), cfg.wf = true → l.noneLow = true →
    l.sck ≠ p.cpol →
    frameDecode cfg (pack cfg l :: eventStates (levelsEvents cfg (wordLevels cfg c p l w))) c p.cpol p.cpha =
      [if p.cpha then wordBits w p.lsbf else (wordBits w p.lsbf).tail] ∧
    (wordEnd cfg c p l).sck = p.cpol

/-- R6 `XFER_MAX`, R76, R79, R195 (log 2, log 15): an XFER term without a word, or with more than `XFER_MAX` or than
three words, ends with `IllegalCommand` in every state, with nothing else changed; where `XFER_MAX` is 3, every XFER a
command word carries is legal. That such a term ends so is the model's choice: no word decodes to one without a word or
with more than three (log 15: R51 and R77 speak of words, not of terms), and for a count above a smaller `XFER_MAX` R77
names no such case (log 2). -/
def Obligations.XferCountIsBounded : Prop :=
  (∀ (c : Chan) (p : Profile) (ws : List Word) (s : State), ws = [] ∨ 3 < ws.length ∨ s.cfg.xferMax < ws.length →
    exec (.xfer c p ws) s = .next (s.close .illegalCommand)) ∧
  ∀ (w : Cmd) (i : Instr) (cfg : Config), 3 ≤ cfg.xferMax → decode w = .ok i → i.legalIn cfg = true

/-- 93_implementation_defined.md U1, U2 (log 3, log 20): with a profile's phase switched off, CFGIDLE and XFER are refused.
With it on both run, whatever the bit order and its switch: CFGIDLE does not look at `LSBF` (R106), and what an XFER with
`LSBF = 1` sends where `ALLOW_LSBF` is off (free words) is the model's choice. -/
def Obligations.SwitchedOffProfilesRefused : Prop :=
  ∀ (c : Chan) (p : Profile) (ws : List Word) (s : State),
    (s.cfg.allowCpha1 = false → p.cpha = true →
      exec (.cfgIdle p) s = .refused .profileSwitchedOff ∧
      ((Instr.xfer c p ws).legalIn s.cfg = true → exec (.xfer c p ws) s = .refused .profileSwitchedOff)) ∧
    (s.cfg.allowCpha1 = true ∨ p.cpha = false →
      (∃ t, exec (.cfgIdle p) s = .next t) ∧
      ((Instr.xfer c p ws).legalIn s.cfg = true → ∃ t, exec (.xfer c p ws) s = .next t)) ∧
    ∀ b, exec (.cfgIdle { p with lsbf := b }) s = exec (.cfgIdle p) s

/-! ### The AD9833 encoder -/

/-- R6 `FREQ_W`, R75: the frequency operand is the signed number the low `FREQ_W` bits of its field denote, and with
`FREQ_W = 48` it is `sint(FREQ48)`. That the bits above a smaller `FREQ_W` are ignored is the model's choice (log 2). -/
def Obligations.FreqOperandIsSigned : Prop :=
  ∀ (cfg : Config) (f : BitVec 48),
    (cfg.freqW = 48 → freqOperand cfg f = f.toInt) ∧
    (1 ≤ cfg.freqW → cfg.freqW ≤ 48 →
      -(2 ^ (cfg.freqW - 1) : Int) ≤ freqOperand cfg f ∧ freqOperand cfg f < 2 ^ (cfg.freqW - 1) ∧
      (2 ^ cfg.freqW : Int) ∣ freqOperand cfg f - f.toNat)

/-- R131: `FreqReg(F) = floor(frequencyHz * 2^28 / MCLK_HZ + 1/2)` with `frequencyHz = F / 2^FREQ_F`, ties going up. -/
def Obligations.FreqRegIsRounded : Prop :=
  ∀ (cfg : Config) (f : Nat), 0 < cfg.mclkHz → cfg.tieUp = true →
    (freqReg cfg f : ℤ) = ⌊(f : ℚ) / 2 ^ cfg.freqF * 2 ^ 28 / cfg.mclkHz + 1 / 2⌋

/-- R149: the frequency recovered from the register is within half a step of the operand, whichever way ties go (U3),
and up to half the master clock the register value is at most `2^27`. -/
def Obligations.FrequencyAccuracy : Prop :=
  ∀ (cfg : Config) (f : Nat), 0 < cfg.mclkHz →
    |(freqReg cfg f : ℚ) * cfg.mclkHz / 2 ^ 28 - (f : ℚ) / 2 ^ cfg.freqF| ≤ (cfg.mclkHz : ℚ) / 2 ^ 29 ∧
    ((f : ℚ) / 2 ^ cfg.freqF ≤ (cfg.mclkHz : ℚ) / 2 → freqReg cfg f ≤ 2 ^ 27)

/-- R131: at the default configuration no operand is a tie, so the choice of U3 changes no register value. -/
def Obligations.NoTieAtDefault : Prop :=
  ∀ f : Nat, freqReg { Config.default with tieUp := false } f = freqReg Config.default f

/-- R132, R133: where the register value fits 28 bits, the two frequency words carry its low and its high fourteen bits
under the channel's tag in bits 15:14. (Beyond 28 bits R132's reduction is what U4 says to make no claim about: log
10.) -/
def Obligations.FreqWordsCarryRegister : Prop :=
  ∀ (cfg : Config) (ch : Int) (f : Nat), cfg.wf = true → freqReg cfg f < 2 ^ 28 →
    (freqLoWord cfg ch f).toNat = (freqTag cfg ch).toNat + freqReg cfg f % 2 ^ 14 ∧
    (freqHiWord cfg ch f).toNat = (freqTag cfg ch).toNat + freqReg cfg f / 2 ^ 14 ∧
    (freqTag cfg ch = 0x4000#16 ∨ freqTag cfg ch = 0x8000#16) ∧ freqTag cfg 0 ≠ freqTag cfg 1

/-! ### The AD9833 driver -/

/-- R138, R172: an attach the adapter accepts sets the attach flag after the idle configuration of the driver's profile;
one it rejects leaves the flag as it was; both leave every other driver register alone, attached before or not. -/
def Obligations.AttachResult : Prop :=
  ∀ s : State,
    (s.portsReady 1 1 →
      exec .adAttach s = .next ({ s.idled s.cfg.adProfile with ad := { s.ad with att := true } }.close .ok) ∧
      exec .mcpAttach s = .next ({ s.idled s.cfg.mcpProfile with mcp := { s.mcp with att := true } }.close .ok)) ∧
    (s.answers.head? = some .failure →
      exec .adAttach s = .next ((s.idleRejected s.cfg.adProfile).close .gpioFault) ∧
      exec .mcpAttach s = .next ((s.idleRejected s.cfg.mcpProfile).close .gpioFault))

/-- R140: AD.BEGIN sets `B28`, sends the image and runs the reset sequence; from there `B28` is 1, `RESET` and `AD_RST`
are 0 and every other field of the image is kept. -/
def Obligations.BeginResult : Prop :=
  ∀ s : State, s.ad.att = true → s.busOk = true → s.portsReady 153 154 →
    let t := (s.sentCtrl (ctrlPut s.cfg.ctrl .b28 true s.ad.ctrl)).resetDone
    exec .adBegin s = .next (t.close .ok) ∧ t.ad.rst = false ∧
    (s.cfg.wf = true → ctrlGet s.cfg.ctrl .b28 t.ad.ctrl = true ∧ ctrlGet s.cfg.ctrl .reset t.ad.ctrl = false ∧
      ∀ f, f ≠ .b28 → f ≠ .reset → ctrlGet s.cfg.ctrl f t.ad.ctrl = ctrlGet s.cfg.ctrl f s.ad.ctrl)

/-- R141, R146: AD.RESET: the whole sequence with ready ports; with a fault in the first write `RESET` stays set in the
image and `AD_RST` is as it was; with a fault in the second `RESET` is clear and `AD_RST` is 1; `BUS_OK` is then 0 and
the driver stays attached. -/
def Obligations.ResetResult : Prop :=
  ∀ s : State, s.ad.att = true → s.busOk = true →
    (s.portsReady 102 103 → exec .adReset s = .next (s.resetDone.close .ok)) ∧
    (∀ k, k < 102 → s.failsAt k →
      ∃ t, exec .adReset s = .next t ∧ t.status = .gpioFault ∧ t.busOk = false ∧ t.busy = false ∧
        t.ad.att = true ∧ t.ad.cs = s.ad.cs ∧
        (k < 51 → t.ad.ctrl = ctrlPut s.cfg.ctrl .reset true s.ad.ctrl ∧ t.ad.rst = s.ad.rst) ∧
        (51 ≤ k → t.ad.ctrl = ctrlPut s.cfg.ctrl .reset false s.ad.ctrl ∧ t.ad.rst = true))

/-- R142: AD.SETFREQ sends the image as it stands, the low word, then the high word, and changes no driver register. -/
def Obligations.SetFreqResult : Prop :=
  ∀ (ch : BitVec 8) (f : BitVec 48) (s : State), 0 < s.cfg.mclkHz → (ch.toInt = 0 ∨ ch.toInt = 1) →
    0 ≤ freqOperand s.cfg f → s.ad.att = true → s.busOk = true → s.portsReady 153 153 →
    exec (.adSetFreq ch f) s = .next ((s.sent s.ad.cs s.cfg.adProfile
      [s.ad.ctrl, freqLoWord s.cfg ch.toInt (freqOperand s.cfg f).toNat,
        freqHiWord s.cfg ch.toInt (freqOperand s.cfg f).toNat]).close .ok)

/-- R148 (log 9): a configuration without a master clock, which R148 excludes, stops AD.SETFREQ where it would divide. -/
def Obligations.SetFreqWithoutClockStops : Prop :=
  ∀ (ch : BitVec 8) (f : BitVec 48) (s : State),
    exec (.adSetFreq ch f) s = .fault .noMasterClock ↔
      s.cfg.mclkHz = 0 ∧ (ch.toInt = 0 ∨ ch.toInt = 1) ∧ 0 ≤ freqOperand s.cfg f ∧ s.ad.att = true ∧ s.busOk = true

/-- R143: AD.SETACT writes `FSELECT` with the channel, keeps every other field, and sends the image even where it did
not change. -/
def Obligations.SetActResult : Prop :=
  ∀ (ch : BitVec 8) (b : Bool) (s : State), ch.toInt = (if b then 1 else 0) → s.ad.att = true → s.busOk = true →
    s.portsReady 51 51 →
    let v := ctrlPut s.cfg.ctrl .fselect b s.ad.ctrl
    exec (.adSetAct ch) s = .next ((s.sentCtrl v).close .ok) ∧
    (s.cfg.wf = true → ctrlGet s.cfg.ctrl .fselect v = b ∧
      ∀ f, f ≠ .fselect → ctrlGet s.cfg.ctrl f v = ctrlGet s.cfg.ctrl f s.ad.ctrl)

/-- R144, R145: AD.SETMODE replaces the mode field by the mode's pattern and sends the image; AD.SHUTDOWN is AD.SETMODE
OFF in every state. -/
def Obligations.SetModeResult : Prop :=
  ∀ (m : Mode) (s : State), exec .adShutdown s = exec (.adSetMode .off) s ∧
    (s.ad.att = true → s.busOk = true → s.portsReady 51 51 →
      exec (.adSetMode m) s =
        .next ((s.sentCtrl ((s.ad.ctrl &&& ~~~s.cfg.modes.mask) ||| modeBits s.cfg.modes m)).close .ok) ∧
      exec .adShutdown s =
        .next ((s.sentCtrl ((s.ad.ctrl &&& ~~~s.cfg.modes.mask) ||| s.cfg.modes.off)).close .ok))

/-- S6 of 95_test_vectors.md, by R144 and R146: after `setMode(X)` then `setMode(Y)` on an attached driver, however
either ends, the mode field of the image is exactly `Y`'s and every other bit is what it was. -/
def Obligations.ModesExcludeEachOther : Prop :=
  ∀ (x y : Mode) (s t u : State), s.cfg.wf = true → s.ad.att = true → exec (.adSetMode x) s = .next t →
    exec (.adSetMode y) t = .next u →
    u.ad.ctrl &&& s.cfg.modes.mask = modeBits s.cfg.modes y ∧
    u.ad.ctrl &&& ~~~s.cfg.modes.mask = s.ad.ctrl &&& ~~~s.cfg.modes.mask

/-- R205: the AD9833 driver's state machine, by the status a command ended with and, for a reset sequence cut short by
the adapter, by how many writes it issued (the first reset write is the first word of AD.RESET and the second of
AD.BEGIN). A command of no row keeps the state. -/
def Obligations.AdStateMachine : Prop :=
  ∀ (i : Instr) (s t : State) (es : List Event), Inv s → exec i s = .next t → t.busy = false →
    t.trace = s.trace ++ es →
    let afterReset (writes : Nat) :=
      (adState s = .unattached → adState t = .unattached ∧ t.status = .deviceNotAttached) ∧
      (adState s ≠ .unattached → t.status = .ok ∨ t.status = .gpioFault) ∧
      (t.status = .ok → adState t = .idle) ∧
      (t.status = .gpioFault → adState s = .resetting → adState t = .resetting) ∧
      (t.status = .gpioFault → adState s = .idle →
        adState t = if countDrv es ≤ writes then .idle else .resetting)
    match i with
    | .adAttach =>
      (t.status = .ok → adState t = if adState s = .resetting then .resetting else .idle) ∧
      (t.status = .gpioFault → adState t = adState s)
    | .adDetach => adState t = .unattached
    | .adBegin => afterReset 102
    | .adReset => afterReset 51
    | _ => adState t = adState s

/-- R142, R111, R225: AD.SETFREQ that finds the clock at the driver's idle level delivers the control image, the low word
and the high word to the chip on the driver's channel, and nothing to another. (The words are named by the encoder's
functions: for a register value of `2^28` or more they rest on R132's reduction, U4, log 10.) -/
def Obligations.SetFreqDelivers : Prop :=
  ∀ (ch : BitVec 8) (f : BitVec 48) (s : State), Inv s → s.busy = false → (ch.toInt = 0 ∨ ch.toInt = 1) →
    0 ≤ freqOperand s.cfg f → s.ad.att = true → s.busOk = true → s.portsReady 153 153 → s.lines.sck = true →
    ∃ t es, exec (.adSetFreq ch f) s = .next t ∧ t.trace = s.trace ++ es ∧
      (frameDecode s.cfg (pack s.cfg s.lines :: eventStates es) s.ad.cs true false).map
        (frameWord s.cfg.adProfile.lsbf) =
        [some s.ad.ctrl, some (freqLoWord s.cfg ch.toInt (freqOperand s.cfg f).toNat),
          some (freqHiWord s.cfg ch.toInt (freqOperand s.cfg f).toNat)] ∧
      ∀ c', c' ≠ s.ad.cs → ∀ cpol cpha,
        frameDecode s.cfg (pack s.cfg s.lines :: eventStates es) c' cpol cpha = []

/-- R137, R140, invariant (b): AD.BEGIN that finds the clock at the driver's idle level delivers the image with `B28` and
then with `RESET` set, holds for `T_RESET_US`, and only then delivers it with `RESET` clear. -/
def Obligations.BeginDelivers : Prop :=
  ∀ s : State, Inv s → s.busy = false → s.ad.att = true → s.busOk = true → s.portsReady 153 154 →
    s.lines.sck = true →
    let v := s.ad.ctrl ||| ctrlBit s.cfg.ctrl .b28
    ∃ t es es', exec .adBegin s = .next t ∧ t.trace = s.trace ++ es ++ [.dly s.cfg.tResetUs] ++ es' ∧
      (frameDecode s.cfg (pack s.cfg s.lines :: eventStates es) s.ad.cs true false).map
        (frameWord s.cfg.adProfile.lsbf) = [some v, some (v ||| ctrlBit s.cfg.ctrl .reset)] ∧
      (frameDecode s.cfg ((eventStates es).getLastD 0#8 :: eventStates es') s.ad.cs true false).map
        (frameWord s.cfg.adProfile.lsbf) = [some (v &&& ~~~(ctrlBit s.cfg.ctrl .reset))]

/-! ### The MCP41010 driver -/

/-- R171, R177: the word of MCP.WRITE is the command byte above the value clamped to 0..255. -/
def Obligations.McpWordIsClamped : Prop :=
  ∀ (cfg : Config) (v : Int), ((mcpWord cfg v).toNat : Int) = 256 * cfg.mcpCmdByte.toNat + max 0 (min v 255)

/-- R175: MCP.WRITE sends one word on the selected channel in the driver's profile and changes no driver register; a
value behaves as its clamp (S5). -/
def Obligations.McpWriteResult : Prop :=
  ∀ (imm : BitVec 32) (s : State),
    (s.mcp.att = true → s.busOk = true → s.portsReady 51 51 →
      exec (.mcpWrite imm) s =
        .next ((s.sent s.mcp.cs s.cfg.mcpProfile [mcpWord s.cfg imm.toInt]).close .ok)) ∧
    exec (.mcpWrite imm) s = exec (.mcpWrite (BitVec.ofInt 32 (max 0 (min imm.toInt 255)))) s

/-! ### Errors -/

/-- R191: the three conditions of `InvalidArgument`, in every state and before the attach check; nothing but the status
changes; no other command reports it. -/
def Obligations.InvalidArgumentCauses : Prop :=
  (∀ (ch : BitVec 8) (f : BitVec 48) (s : State), ¬(ch.toInt = 0 ∨ ch.toInt = 1) ∨ freqOperand s.cfg f < 0 →
    exec (.adSetFreq ch f) s = .next (s.close .invalidArgument)) ∧
  (∀ (ch : BitVec 8) (s : State), ¬(ch.toInt = 0 ∨ ch.toInt = 1) →
    exec (.adSetAct ch) s = .next (s.close .invalidArgument)) ∧
  ∀ (i : Instr) (s t : State), exec i s = .next t → t.replies = s.replies ++ [.invalidArgument] →
    match i with
    | .adSetFreq ch f => ¬(ch.toInt = 0 ∨ ch.toInt = 1) ∨ freqOperand s.cfg f < 0
    | .adSetAct ch => ¬(ch.toInt = 0 ∨ ch.toInt = 1)
    | _ => False

/-- R192: an unattached driver rejects its bus-touching commands with `DeviceNotAttached`, whatever the other driver and
the bus; nothing but the status changes; no other command reports it. (AD.SETFREQ and AD.SETACT with legal operands:
R197.) -/
def Obligations.UnattachedDriverRejects : Prop :=
  (∀ s : State,
    (s.ad.att = false →
      exec .adBegin s = .next (s.close .deviceNotAttached) ∧ exec .adReset s = .next (s.close .deviceNotAttached) ∧
      exec .adShutdown s = .next (s.close .deviceNotAttached) ∧
      (∀ m, exec (.adSetMode m) s = .next (s.close .deviceNotAttached)) ∧
      (∀ ch : BitVec 8, ch.toInt = 0 ∨ ch.toInt = 1 → exec (.adSetAct ch) s = .next (s.close .deviceNotAttached) ∧
        ∀ f : BitVec 48, 0 ≤ freqOperand s.cfg f →
          exec (.adSetFreq ch f) s = .next (s.close .deviceNotAttached))) ∧
    (s.mcp.att = false → ∀ imm, exec (.mcpWrite imm) s = .next (s.close .deviceNotAttached))) ∧
  ∀ (i : Instr) (s t : State), exec i s = .next t → t.replies = s.replies ++ [.deviceNotAttached] →
    match i with
    | .adBegin | .adReset | .adSetFreq _ _ | .adSetAct _ | .adSetMode _ | .adShutdown => s.ad.att = false
    | .mcpWrite _ => s.mcp.att = false
    | _ => False

/-- R194 (with R146): with `BUS_OK = 0` a transfer ends with `GpioFault` and no event, after the attach and argument
checks; the fields of the image written before it are kept. -/
def Obligations.BadBusRaisesGpioFault : Prop :=
  ∀ s : State, s.busOk = false →
    (∀ c p ws, (Instr.xfer c p ws).legalIn s.cfg = true → profileAllowed s.cfg p = true →
      exec (.xfer c p ws) s = .next (s.close .gpioFault)) ∧
    (s.mcp.att = true → ∀ imm, exec (.mcpWrite imm) s = .next (s.close .gpioFault)) ∧
    (s.ad.att = true →
      exec .adBegin s = .next ((s.setAdCtrl (ctrlPut s.cfg.ctrl .b28 true s.ad.ctrl)).close .gpioFault) ∧
      exec .adReset s = .next ((s.setAdCtrl (ctrlPut s.cfg.ctrl .reset true s.ad.ctrl)).close .gpioFault) ∧
      exec .adShutdown s = .next ((s.setAdCtrl (ctrlWithMode s.cfg.modes .off s.ad.ctrl)).close .gpioFault) ∧
      (∀ m, exec (.adSetMode m) s = .next ((s.setAdCtrl (ctrlWithMode s.cfg.modes m s.ad.ctrl)).close .gpioFault)) ∧
      (∀ (ch : BitVec 8) (b : Bool), ch.toInt = (if b then 1 else 0) →
        exec (.adSetAct ch) s = .next ((s.setAdCtrl (ctrlPut s.cfg.ctrl .fselect b s.ad.ctrl)).close .gpioFault) ∧
        ∀ f : BitVec 48, 0 ≤ freqOperand s.cfg f → exec (.adSetFreq ch f) s = .next (s.close .gpioFault)))

/-- R193: a command that reports `GpioFault` on a good bus ended at its first failed request: the last event of the
trace is that request, its state is what the line registers hold, and `BUS_OK` is 0. -/
def Obligations.FailedRequestIsLastEvent : Prop :=
  ∀ (i : Instr) (s t : State), exec i s = .next t → s.busOk = true → t.replies = s.replies ++ [.gpioFault] →
    t.busOk = false ∧
    (t.trace.getLast? = some (.cfg s.cfg.enMask s.cfg.dirMask (pack s.cfg t.lines)) ∨
      t.trace.getLast? = some (.drv s.cfg.dirMask (pack s.cfg t.lines)))

/-- R190, R196: a well-formed command that completes or raises reports exactly one status, one of its row, in `STATUS`
and to the host, and is no longer busy; a command still busy has reported none. -/
def Obligations.CommandsReportOneStatus : Prop :=
  ∀ (i : Instr) (s t : State), i.legalIn s.cfg = true → exec i s = .next t →
    (t.busy = false ∧ t.replies = s.replies ++ [t.status] ∧ t.status ∈ endStatuses i) ∨
    (t.busy = true ∧ t.replies = s.replies ∧ t.status = s.status)

/-! ### Whole-machine rules -/

/-- R28, R36, R38, invariant (a): the invariant holds after reset, at the default configuration and at every other that
R6 allows. (That `BITCNT` is at most 16 there is the model's choice, log 6.) -/
def Obligations.InvAtReset : Prop :=
  Inv State.reset ∧ ∀ cfg : Config, cfg.wf = true → Inv (State.resetWith cfg)

/-- R28, R36, R38, invariant (a): every step keeps the invariant. -/
def Obligations.StepKeepsInv : Prop := ∀ s t : State, Inv s → step s = .next t → Inv t

/-- R20: each register is written only by the commands named for it, however they end; a step changes neither the
configuration nor what was already output, and takes at most the head of the host's queue. -/
def Obligations.RegistersHaveTheirWriters : Prop :=
  ∀ (i : Instr) (s t : State), exec i s = .next t →
    t.cfg = s.cfg ∧ t.cmds = s.cmds ∧ s.trace <+: t.trace ∧ s.replies <+: t.replies ∧
    (i ≠ .adAttach → i ≠ .adDetach → t.ad.att = s.ad.att) ∧
    ((∀ imm, i ≠ .adSetCs imm) → t.ad.cs = s.ad.cs) ∧
    (i ≠ .adBegin → i ≠ .adReset → i ≠ .adDetach → t.ad.rst = s.ad.rst) ∧
    (i ≠ .adBegin → i ≠ .adReset → i ≠ .adDetach → i ≠ .adShutdown → (∀ ch, i ≠ .adSetAct ch) →
      (∀ m, i ≠ .adSetMode m) → t.ad.ctrl = s.ad.ctrl) ∧
    (i ≠ .mcpAttach → i ≠ .mcpDetach → t.mcp.att = s.mcp.att) ∧
    ((∀ imm, i ≠ .mcpSetCs imm) → t.mcp.cs = s.mcp.cs)

/-- R20, R236: the commands that touch no port leave the line registers, `BUS_OK`, the shifter, both ports' inputs and
the trace alone. -/
def Obligations.PortlessCommandsKeepTheBus : Prop :=
  ∀ (i : Instr) (s t : State),
    (i = .adDetach ∨ i = .mcpDetach ∨ (∃ imm, i = .adSetCs imm) ∨ ∃ imm, i = .mcpSetCs imm) → exec i s = .next t →
    t.lines = s.lines ∧ t.busOk = s.busOk ∧ t.shifter = s.shifter ∧ t.answers = s.answers ∧ t.waits = s.waits ∧
    t.trace = s.trace

/-- R38 (with R228): the clock idles at the level of the profile of the last idle configuration or transfer: a command
with one that ends with `OK` leaves it there, and a command without one does not move it. -/
def Obligations.ClockIdlesAtLastProfile : Prop :=
  ∀ (i : Instr) (s t : State), exec i s = .next t → t.replies = s.replies ++ [.ok] →
    match i with
    | .cfgIdle p | .xfer _ p _ => t.lines.sck = p.cpol
    | .adAttach | .adBegin | .adReset | .adSetFreq _ _ | .adSetAct _ | .adSetMode _ | .adShutdown =>
      t.lines.sck = s.cfg.adProfile.cpol
    | .mcpAttach | .mcpWrite _ => t.lines.sck = s.cfg.mcpProfile.cpol
    | .adDetach | .adSetCs _ | .mcpDetach | .mcpSetCs _ => t.lines.sck = s.lines.sck

/-- R57: no rule reads the trace: a command run after another past has the same effect and appends the same events. -/
def Obligations.TraceIsNotRead : Prop :=
  ∀ (i : Instr) (s t : State) (past : List Event), exec i s = .next t →
    ∃ es, t.trace = s.trace ++ es ∧ exec i { s with trace := past } = .next { t with trace := past ++ es }

/-- R236: the requests and delays of every command that ends with `OK`, and the least time its delays take. -/
def Obligations.EventCounts : Prop :=
  ∀ (i : Instr) (s t : State) (es : List Event), i.legalIn s.cfg = true → exec i s = .next t → t.replies = s.replies ++ [.ok] →
    t.trace = s.trace ++ es →
    let words (n : Nat) := countCfg es = 0 ∧ countDrv es = 51 * n ∧ es.length = 102 * n ∧
      minDelay es = 51 * n * s.cfg.tBitUs
    match i with
    | .cfgIdle _ | .adAttach | .mcpAttach =>
      countCfg es = 1 ∧ countDrv es = 0 ∧ es.length = 2 ∧ minDelay es = s.cfg.tSettleUs
    | .xfer _ _ ws => words ws.length
    | .adBegin => countCfg es = 0 ∧ countDrv es = 153 ∧ es.length = 307 ∧
      minDelay es = 153 * s.cfg.tBitUs + s.cfg.tResetUs
    | .adReset => countCfg es = 0 ∧ countDrv es = 102 ∧ es.length = 205 ∧
      minDelay es = 102 * s.cfg.tBitUs + s.cfg.tResetUs
    | .adSetFreq _ _ => words 3
    | .adSetAct _ | .adSetMode _ | .adShutdown | .mcpWrite _ => words 1
    | .adDetach | .adSetCs _ | .mcpDetach | .mcpSetCs _ => es = []

/-- R35, R31: the five registers of the read-only view, bit by bit, and no other. -/
def Obligations.ViewRegisters : Prop :=
  ∀ s : State,
    (∃ v, viewReg 0 s = some v ∧ v.extractLsb' 0 3 = s.status.code ∧ v.getLsbD 3 = s.busy ∧
      v.getLsbD 4 = s.busOk ∧ v.extractLsb' 5 11 = 0#11) ∧
    (∃ v, viewReg 1 s = some v ∧ v.extractLsb' 0 8 = pack s.cfg s.lines ∧ v.extractLsb' 8 8 = 0#8) ∧
    viewReg 2 s = some s.ad.ctrl ∧
    (∃ v, viewReg 3 s = some v ∧ v.getLsbD 0 = s.ad.att ∧ v.getLsbD 1 = s.ad.rst ∧
      v.extractLsb' 2 2 = s.ad.cs.toBits ∧ v.extractLsb' 4 12 = 0#12) ∧
    (∃ v, viewReg 4 s = some v ∧ v.getLsbD 0 = s.mcp.att ∧ v.getLsbD 1 = false ∧
      v.extractLsb' 2 2 = s.mcp.cs.toBits ∧ v.extractLsb' 4 12 = 0#12) ∧
    ∀ n, 5 ≤ n → viewReg n s = none

/-- R26, R32, R35 (U9): while the hold of AD.RESET has not ended the host sees `BUSY = 1` and `AD_RST = 1`, no status has
come back, and no further command is accepted. -/
def Obligations.HostSeesResetting : Prop :=
  ∀ s : State, s.ad.att = true → s.busOk = true → s.portsReady 51 51 → s.waits[51]? = some .never →
    ∃ t, exec .adReset s = .next t ∧ t.busy = true ∧ t.ad.rst = true ∧ adState t = .resetting ∧
      t.replies = s.replies ∧ t.trace.getLast? = some (.dly s.cfg.tResetUs) ∧ step t = .next t

/-- R37, R55 (U9, R65): a command that issued a request and ended with `OK` leaves the pins at the levels of its last
request, and so does one that waits for a delay to end; one that ended with `GpioFault` leaves them unknown, and so does
one whose last request is not answered (there unknown is the model's choice: log 16). That a known level is that of the
request's bit also at a pin which is no line, and at a line the masks do not select, is the model's choice (R53, U11:
log 16). -/
def Obligations.PinsFollowLastRequest : Prop :=
  ∀ (i : Instr) (s t : State) (es : List Event), exec i s = .next t → t.trace = s.trace ++ es → eventStates es ≠ [] →
    (t.replies = s.replies ++ [.ok] → pins t = (eventStates es).getLast?) ∧
    (t.replies = s.replies ++ [.gpioFault] → pins t = none) ∧
    (∀ n, t.busy = true → es.getLast? = some (.dly n) → pins t = (eventStates es).getLast?) ∧
    (t.busy = true → (∀ n, es.getLast? ≠ some (.dly n)) → pins t = none)

/-- R236, U9: where every request is answered and every delay ends, every command that has a semantics ends. -/
def Obligations.AnsweredCommandsEnd : Prop :=
  ∀ (i : Instr) (s t : State), Answer.never ∉ s.answers → Wait.never ∉ s.waits → exec i s = .next t →
    t.busy = false
end

