-- ==== Sys2Proof/Laws/Decode.lean ====
section
/-! SUPPORT. The fields of a word built as opcode, short operand, long operand (R70), and the operand codes that read
back what was written (R76). -/

namespace Sys2Proof

/-- R70: the opcode of a built word. -/
theorem opc_append (o a : BitVec 8) (b : BitVec 48) : opc ((o ++ a) ++ b) = o := by
  apply BitVec.eq_of_getLsbD_eq
  intro i hi
  simp only [opc, field, BitVec.getLsbD_extractLsb', BitVec.getLsbD_append]
  have h1 : ¬ (56 + i < 48) := by omega
  have h2 : ¬ (56 + i - 48 < 8) := by omega
  have h3 : 56 + i - 48 - 8 = i := by omega
  simp [hi, h1, h2, h3]

/-- R70, R71: a field of the short operand of a built word. -/
theorem field_short (o a : BitVec 8) (b : BitVec 48) (n lo : Nat) (h : lo + n ≤ 8) :
    field n (48 + lo) ((o ++ a) ++ b) = a.extractLsb' lo n := by
  apply BitVec.eq_of_getLsbD_eq
  intro i hi
  simp only [field, BitVec.getLsbD_extractLsb', BitVec.getLsbD_append]
  have h1 : ¬ (48 + lo + i < 48) := by omega
  have h3 : 48 + lo + i - 48 = lo + i := by omega
  have h4 : lo + i < 8 := by omega
  simp [hi, h1, h3, h4]

/-- R70, R71: a field of the long operand of a built word. -/
theorem field_long (o a : BitVec 8) (b : BitVec 48) (n lo : Nat) (h : lo + n ≤ 48) :
    field n lo ((o ++ a) ++ b) = b.extractLsb' lo n := by
  apply BitVec.eq_of_getLsbD_eq
  intro i hi
  simp only [field, BitVec.getLsbD_extractLsb', BitVec.getLsbD_append]
  have h1 : (lo + i < 48) := by omega
  simp [hi, h1]

/-- R76: a profile's three bits read back. -/
theorem Profile.ofBits_toBits (p : Profile) : Profile.ofBits p.toBits = p := by
  rcases p with ⟨a, b, c⟩
  cases a <;> cases b <;> cases c <;> rfl

/-- R76: three bits are those of the profile they are read as. -/
theorem Profile.toBits_ofBits (b : BitVec 3) : (Profile.ofBits b).toBits = b := by
  revert b
  decide

/-- R76: a channel's number reads back. -/
theorem Chan.ofBits_toBits (c : Chan) : Chan.ofBits c.toBits = some c := by
  cases c <;> rfl

/-- R76: a mode's number reads back. -/
theorem Mode.ofBits_toBits (m : Mode) : Mode.ofBits m.toBits = some m := by
  cases m <;> rfl

end Sys2Proof
end

