-- ==== Sys2Proof/Laws/State.lean ====
section
/-! SUPPORT. One lemma per field of State and named update, each true by rfl. -/

namespace Sys2Proof.Machine

section
variable (s : State) (l : Lines)
@[simp] theorem State.setLines_cfg : (s.setLines l).cfg = s.cfg := rfl
@[simp] theorem State.setLines_lines : (s.setLines l).lines = l := rfl
@[simp] theorem State.setLines_busOk : (s.setLines l).busOk = s.busOk := rfl
@[simp] theorem State.setLines_ad : (s.setLines l).ad = s.ad := rfl
@[simp] theorem State.setLines_mcp : (s.setLines l).mcp = s.mcp := rfl
@[simp] theorem State.setLines_status : (s.setLines l).status = s.status := rfl
@[simp] theorem State.setLines_busy : (s.setLines l).busy = s.busy := rfl
@[simp] theorem State.setLines_shifter : (s.setLines l).shifter = s.shifter := rfl
@[simp] theorem State.setLines_cmds : (s.setLines l).cmds = s.cmds := rfl
@[simp] theorem State.setLines_answers : (s.setLines l).answers = s.answers := rfl
@[simp] theorem State.setLines_waits : (s.setLines l).waits = s.waits := rfl
@[simp] theorem State.setLines_trace : (s.setLines l).trace = s.trace := rfl
@[simp] theorem State.setLines_replies : (s.setLines l).replies = s.replies := rfl
end

section
variable (s : State) (b : Bool)
@[simp] theorem State.setBusOk_cfg : (s.setBusOk b).cfg = s.cfg := rfl
@[simp] theorem State.setBusOk_lines : (s.setBusOk b).lines = s.lines := rfl
@[simp] theorem State.setBusOk_busOk : (s.setBusOk b).busOk = b := rfl
@[simp] theorem State.setBusOk_ad : (s.setBusOk b).ad = s.ad := rfl
@[simp] theorem State.setBusOk_mcp : (s.setBusOk b).mcp = s.mcp := rfl
@[simp] theorem State.setBusOk_status : (s.setBusOk b).status = s.status := rfl
@[simp] theorem State.setBusOk_busy : (s.setBusOk b).busy = s.busy := rfl
@[simp] theorem State.setBusOk_shifter : (s.setBusOk b).shifter = s.shifter := rfl
@[simp] theorem State.setBusOk_cmds : (s.setBusOk b).cmds = s.cmds := rfl
@[simp] theorem State.setBusOk_answers : (s.setBusOk b).answers = s.answers := rfl
@[simp] theorem State.setBusOk_waits : (s.setBusOk b).waits = s.waits := rfl
@[simp] theorem State.setBusOk_trace : (s.setBusOk b).trace = s.trace := rfl
@[simp] theorem State.setBusOk_replies : (s.setBusOk b).replies = s.replies := rfl
end

section
variable (s : State) (b : Bool)
@[simp] theorem State.setAdAtt_cfg : (s.setAdAtt b).cfg = s.cfg := rfl
@[simp] theorem State.setAdAtt_lines : (s.setAdAtt b).lines = s.lines := rfl
@[simp] theorem State.setAdAtt_busOk : (s.setAdAtt b).busOk = s.busOk := rfl
@[simp] theorem State.setAdAtt_ad : (s.setAdAtt b).ad = { s.ad with att := b } := rfl
@[simp] theorem State.setAdAtt_mcp : (s.setAdAtt b).mcp = s.mcp := rfl
@[simp] theorem State.setAdAtt_status : (s.setAdAtt b).status = s.status := rfl
@[simp] theorem State.setAdAtt_busy : (s.setAdAtt b).busy = s.busy := rfl
@[simp] theorem State.setAdAtt_shifter : (s.setAdAtt b).shifter = s.shifter := rfl
@[simp] theorem State.setAdAtt_cmds : (s.setAdAtt b).cmds = s.cmds := rfl
@[simp] theorem State.setAdAtt_answers : (s.setAdAtt b).answers = s.answers := rfl
@[simp] theorem State.setAdAtt_waits : (s.setAdAtt b).waits = s.waits := rfl
@[simp] theorem State.setAdAtt_trace : (s.setAdAtt b).trace = s.trace := rfl
@[simp] theorem State.setAdAtt_replies : (s.setAdAtt b).replies = s.replies := rfl
end

section
variable (s : State) (b : Bool)
@[simp] theorem State.setAdRst_cfg : (s.setAdRst b).cfg = s.cfg := rfl
@[simp] theorem State.setAdRst_lines : (s.setAdRst b).lines = s.lines := rfl
@[simp] theorem State.setAdRst_busOk : (s.setAdRst b).busOk = s.busOk := rfl
@[simp] theorem State.setAdRst_ad : (s.setAdRst b).ad = { s.ad with rst := b } := rfl
@[simp] theorem State.setAdRst_mcp : (s.setAdRst b).mcp = s.mcp := rfl
@[simp] theorem State.setAdRst_status : (s.setAdRst b).status = s.status := rfl
@[simp] theorem State.setAdRst_busy : (s.setAdRst b).busy = s.busy := rfl
@[simp] theorem State.setAdRst_shifter : (s.setAdRst b).shifter = s.shifter := rfl
@[simp] theorem State.setAdRst_cmds : (s.setAdRst b).cmds = s.cmds := rfl
@[simp] theorem State.setAdRst_answers : (s.setAdRst b).answers = s.answers := rfl
@[simp] theorem State.setAdRst_waits : (s.setAdRst b).waits = s.waits := rfl
@[simp] theorem State.setAdRst_trace : (s.setAdRst b).trace = s.trace := rfl
@[simp] theorem State.setAdRst_replies : (s.setAdRst b).replies = s.replies := rfl
end

section
variable (s : State) (c : Chan)
@[simp] theorem State.setAdCs_cfg : (s.setAdCs c).cfg = s.cfg := rfl
@[simp] theorem State.setAdCs_lines : (s.setAdCs c).lines = s.lines := rfl
@[simp] theorem State.setAdCs_busOk : (s.setAdCs c).busOk = s.busOk := rfl
@[simp] theorem State.setAdCs_ad : (s.setAdCs c).ad = { s.ad with cs := c } := rfl
@[simp] theorem State.setAdCs_mcp : (s.setAdCs c).mcp = s.mcp := rfl
@[simp] theorem State.setAdCs_status : (s.setAdCs c).status = s.status := rfl
@[simp] theorem State.setAdCs_busy : (s.setAdCs c).busy = s.busy := rfl
@[simp] theorem State.setAdCs_shifter : (s.setAdCs c).shifter = s.shifter := rfl
@[simp] theorem State.setAdCs_cmds : (s.setAdCs c).cmds = s.cmds := rfl
@[simp] theorem State.setAdCs_answers : (s.setAdCs c).answers = s.answers := rfl
@[simp] theorem State.setAdCs_waits : (s.setAdCs c).waits = s.waits := rfl
@[simp] theorem State.setAdCs_trace : (s.setAdCs c).trace = s.trace := rfl
@[simp] theorem State.setAdCs_replies : (s.setAdCs c).replies = s.replies := rfl
end

section
variable (s : State) (v : Word)
@[simp] theorem State.setAdCtrl_cfg : (s.setAdCtrl v).cfg = s.cfg := rfl
@[simp] theorem State.setAdCtrl_lines : (s.setAdCtrl v).lines = s.lines := rfl
@[simp] theorem State.setAdCtrl_busOk : (s.setAdCtrl v).busOk = s.busOk := rfl
@[simp] theorem State.setAdCtrl_ad : (s.setAdCtrl v).ad = { s.ad with ctrl := v } := rfl
@[simp] theorem State.setAdCtrl_mcp : (s.setAdCtrl v).mcp = s.mcp := rfl
@[simp] theorem State.setAdCtrl_status : (s.setAdCtrl v).status = s.status := rfl
@[simp] theorem State.setAdCtrl_busy : (s.setAdCtrl v).busy = s.busy := rfl
@[simp] theorem State.setAdCtrl_shifter : (s.setAdCtrl v).shifter = s.shifter := rfl
@[simp] theorem State.setAdCtrl_cmds : (s.setAdCtrl v).cmds = s.cmds := rfl
@[simp] theorem State.setAdCtrl_answers : (s.setAdCtrl v).answers = s.answers := rfl
@[simp] theorem State.setAdCtrl_waits : (s.setAdCtrl v).waits = s.waits := rfl
@[simp] theorem State.setAdCtrl_trace : (s.setAdCtrl v).trace = s.trace := rfl
@[simp] theorem State.setAdCtrl_replies : (s.setAdCtrl v).replies = s.replies := rfl
end

section
variable (s : State) (b : Bool)
@[simp] theorem State.setMcpAtt_cfg : (s.setMcpAtt b).cfg = s.cfg := rfl
@[simp] theorem State.setMcpAtt_lines : (s.setMcpAtt b).lines = s.lines := rfl
@[simp] theorem State.setMcpAtt_busOk : (s.setMcpAtt b).busOk = s.busOk := rfl
@[simp] theorem State.setMcpAtt_ad : (s.setMcpAtt b).ad = s.ad := rfl
@[simp] theorem State.setMcpAtt_mcp : (s.setMcpAtt b).mcp = { s.mcp with att := b } := rfl
@[simp] theorem State.setMcpAtt_status : (s.setMcpAtt b).status = s.status := rfl
@[simp] theorem State.setMcpAtt_busy : (s.setMcpAtt b).busy = s.busy := rfl
@[simp] theorem State.setMcpAtt_shifter : (s.setMcpAtt b).shifter = s.shifter := rfl
@[simp] theorem State.setMcpAtt_cmds : (s.setMcpAtt b).cmds = s.cmds := rfl
@[simp] theorem State.setMcpAtt_answers : (s.setMcpAtt b).answers = s.answers := rfl
@[simp] theorem State.setMcpAtt_waits : (s.setMcpAtt b).waits = s.waits := rfl
@[simp] theorem State.setMcpAtt_trace : (s.setMcpAtt b).trace = s.trace := rfl
@[simp] theorem State.setMcpAtt_replies : (s.setMcpAtt b).replies = s.replies := rfl
end

section
variable (s : State) (c : Chan)
@[simp] theorem State.setMcpCs_cfg : (s.setMcpCs c).cfg = s.cfg := rfl
@[simp] theorem State.setMcpCs_lines : (s.setMcpCs c).lines = s.lines := rfl
@[simp] theorem State.setMcpCs_busOk : (s.setMcpCs c).busOk = s.busOk := rfl
@[simp] theorem State.setMcpCs_ad : (s.setMcpCs c).ad = s.ad := rfl
@[simp] theorem State.setMcpCs_mcp : (s.setMcpCs c).mcp = { s.mcp with cs := c } := rfl
@[simp] theorem State.setMcpCs_status : (s.setMcpCs c).status = s.status := rfl
@[simp] theorem State.setMcpCs_busy : (s.setMcpCs c).busy = s.busy := rfl
@[simp] theorem State.setMcpCs_shifter : (s.setMcpCs c).shifter = s.shifter := rfl
@[simp] theorem State.setMcpCs_cmds : (s.setMcpCs c).cmds = s.cmds := rfl
@[simp] theorem State.setMcpCs_answers : (s.setMcpCs c).answers = s.answers := rfl
@[simp] theorem State.setMcpCs_waits : (s.setMcpCs c).waits = s.waits := rfl
@[simp] theorem State.setMcpCs_trace : (s.setMcpCs c).trace = s.trace := rfl
@[simp] theorem State.setMcpCs_replies : (s.setMcpCs c).replies = s.replies := rfl
end

section
variable (s : State) (sh : Shifter)
@[simp] theorem State.setShifter_cfg : (s.setShifter sh).cfg = s.cfg := rfl
@[simp] theorem State.setShifter_lines : (s.setShifter sh).lines = s.lines := rfl
@[simp] theorem State.setShifter_busOk : (s.setShifter sh).busOk = s.busOk := rfl
@[simp] theorem State.setShifter_ad : (s.setShifter sh).ad = s.ad := rfl
@[simp] theorem State.setShifter_mcp : (s.setShifter sh).mcp = s.mcp := rfl
@[simp] theorem State.setShifter_status : (s.setShifter sh).status = s.status := rfl
@[simp] theorem State.setShifter_busy : (s.setShifter sh).busy = s.busy := rfl
@[simp] theorem State.setShifter_shifter : (s.setShifter sh).shifter = sh := rfl
@[simp] theorem State.setShifter_cmds : (s.setShifter sh).cmds = s.cmds := rfl
@[simp] theorem State.setShifter_answers : (s.setShifter sh).answers = s.answers := rfl
@[simp] theorem State.setShifter_waits : (s.setShifter sh).waits = s.waits := rfl
@[simp] theorem State.setShifter_trace : (s.setShifter sh).trace = s.trace := rfl
@[simp] theorem State.setShifter_replies : (s.setShifter sh).replies = s.replies := rfl
end

section
variable (s : State) (cs : List Cmd)
@[simp] theorem State.setCmds_cfg : (s.setCmds cs).cfg = s.cfg := rfl
@[simp] theorem State.setCmds_lines : (s.setCmds cs).lines = s.lines := rfl
@[simp] theorem State.setCmds_busOk : (s.setCmds cs).busOk = s.busOk := rfl
@[simp] theorem State.setCmds_ad : (s.setCmds cs).ad = s.ad := rfl
@[simp] theorem State.setCmds_mcp : (s.setCmds cs).mcp = s.mcp := rfl
@[simp] theorem State.setCmds_status : (s.setCmds cs).status = s.status := rfl
@[simp] theorem State.setCmds_busy : (s.setCmds cs).busy = s.busy := rfl
@[simp] theorem State.setCmds_shifter : (s.setCmds cs).shifter = s.shifter := rfl
@[simp] theorem State.setCmds_cmds : (s.setCmds cs).cmds = cs := rfl
@[simp] theorem State.setCmds_answers : (s.setCmds cs).answers = s.answers := rfl
@[simp] theorem State.setCmds_waits : (s.setCmds cs).waits = s.waits := rfl
@[simp] theorem State.setCmds_trace : (s.setCmds cs).trace = s.trace := rfl
@[simp] theorem State.setCmds_replies : (s.setCmds cs).replies = s.replies := rfl
end

section
variable (s : State) (as : List Answer)
@[simp] theorem State.setAnswers_cfg : (s.setAnswers as).cfg = s.cfg := rfl
@[simp] theorem State.setAnswers_lines : (s.setAnswers as).lines = s.lines := rfl
@[simp] theorem State.setAnswers_busOk : (s.setAnswers as).busOk = s.busOk := rfl
@[simp] theorem State.setAnswers_ad : (s.setAnswers as).ad = s.ad := rfl
@[simp] theorem State.setAnswers_mcp : (s.setAnswers as).mcp = s.mcp := rfl
@[simp] theorem State.setAnswers_status : (s.setAnswers as).status = s.status := rfl
@[simp] theorem State.setAnswers_busy : (s.setAnswers as).busy = s.busy := rfl
@[simp] theorem State.setAnswers_shifter : (s.setAnswers as).shifter = s.shifter := rfl
@[simp] theorem State.setAnswers_cmds : (s.setAnswers as).cmds = s.cmds := rfl
@[simp] theorem State.setAnswers_answers : (s.setAnswers as).answers = as := rfl
@[simp] theorem State.setAnswers_waits : (s.setAnswers as).waits = s.waits := rfl
@[simp] theorem State.setAnswers_trace : (s.setAnswers as).trace = s.trace := rfl
@[simp] theorem State.setAnswers_replies : (s.setAnswers as).replies = s.replies := rfl
end

section
variable (s : State) (ws : List Wait)
@[simp] theorem State.setWaits_cfg : (s.setWaits ws).cfg = s.cfg := rfl
@[simp] theorem State.setWaits_lines : (s.setWaits ws).lines = s.lines := rfl
@[simp] theorem State.setWaits_busOk : (s.setWaits ws).busOk = s.busOk := rfl
@[simp] theorem State.setWaits_ad : (s.setWaits ws).ad = s.ad := rfl
@[simp] theorem State.setWaits_mcp : (s.setWaits ws).mcp = s.mcp := rfl
@[simp] theorem State.setWaits_status : (s.setWaits ws).status = s.status := rfl
@[simp] theorem State.setWaits_busy : (s.setWaits ws).busy = s.busy := rfl
@[simp] theorem State.setWaits_shifter : (s.setWaits ws).shifter = s.shifter := rfl
@[simp] theorem State.setWaits_cmds : (s.setWaits ws).cmds = s.cmds := rfl
@[simp] theorem State.setWaits_answers : (s.setWaits ws).answers = s.answers := rfl
@[simp] theorem State.setWaits_waits : (s.setWaits ws).waits = ws := rfl
@[simp] theorem State.setWaits_trace : (s.setWaits ws).trace = s.trace := rfl
@[simp] theorem State.setWaits_replies : (s.setWaits ws).replies = s.replies := rfl
end

section
variable (s : State) (e : Event)
@[simp] theorem State.log_cfg : (s.log e).cfg = s.cfg := rfl
@[simp] theorem State.log_lines : (s.log e).lines = s.lines := rfl
@[simp] theorem State.log_busOk : (s.log e).busOk = s.busOk := rfl
@[simp] theorem State.log_ad : (s.log e).ad = s.ad := rfl
@[simp] theorem State.log_mcp : (s.log e).mcp = s.mcp := rfl
@[simp] theorem State.log_status : (s.log e).status = s.status := rfl
@[simp] theorem State.log_busy : (s.log e).busy = s.busy := rfl
@[simp] theorem State.log_shifter : (s.log e).shifter = s.shifter := rfl
@[simp] theorem State.log_cmds : (s.log e).cmds = s.cmds := rfl
@[simp] theorem State.log_answers : (s.log e).answers = s.answers := rfl
@[simp] theorem State.log_waits : (s.log e).waits = s.waits := rfl
@[simp] theorem State.log_trace : (s.log e).trace = s.trace ++ [e] := rfl
@[simp] theorem State.log_replies : (s.log e).replies = s.replies := rfl
end

section
variable (s : State)
@[simp] theorem State.accept_cfg : (s.accept).cfg = s.cfg := rfl
@[simp] theorem State.accept_lines : (s.accept).lines = s.lines := rfl
@[simp] theorem State.accept_busOk : (s.accept).busOk = s.busOk := rfl
@[simp] theorem State.accept_ad : (s.accept).ad = s.ad := rfl
@[simp] theorem State.accept_mcp : (s.accept).mcp = s.mcp := rfl
@[simp] theorem State.accept_status : (s.accept).status = s.status := rfl
@[simp] theorem State.accept_busy : (s.accept).busy = true := rfl
@[simp] theorem State.accept_shifter : (s.accept).shifter = s.shifter := rfl
@[simp] theorem State.accept_cmds : (s.accept).cmds = s.cmds := rfl
@[simp] theorem State.accept_answers : (s.accept).answers = s.answers := rfl
@[simp] theorem State.accept_waits : (s.accept).waits = s.waits := rfl
@[simp] theorem State.accept_trace : (s.accept).trace = s.trace := rfl
@[simp] theorem State.accept_replies : (s.accept).replies = s.replies := rfl
end

section
variable (s : State) (e : Status)
@[simp] theorem State.close_cfg : (s.close e).cfg = s.cfg := rfl
@[simp] theorem State.close_lines : (s.close e).lines = s.lines := rfl
@[simp] theorem State.close_busOk : (s.close e).busOk = s.busOk := rfl
@[simp] theorem State.close_ad : (s.close e).ad = s.ad := rfl
@[simp] theorem State.close_mcp : (s.close e).mcp = s.mcp := rfl
@[simp] theorem State.close_status : (s.close e).status = e := rfl
@[simp] theorem State.close_busy : (s.close e).busy = false := rfl
@[simp] theorem State.close_shifter : (s.close e).shifter = s.shifter := rfl
@[simp] theorem State.close_cmds : (s.close e).cmds = s.cmds := rfl
@[simp] theorem State.close_answers : (s.close e).answers = s.answers := rfl
@[simp] theorem State.close_waits : (s.close e).waits = s.waits := rfl
@[simp] theorem State.close_trace : (s.close e).trace = s.trace := rfl
@[simp] theorem State.close_replies : (s.close e).replies = s.replies ++ [e] := rfl
end

section
variable (s : State) (ls : List Lines)
@[simp] theorem State.played_cfg : (s.played ls).cfg = s.cfg := rfl
@[simp] theorem State.played_lines : (s.played ls).lines = ls.getLastD s.lines := rfl
@[simp] theorem State.played_busOk : (s.played ls).busOk = s.busOk := rfl
@[simp] theorem State.played_ad : (s.played ls).ad = s.ad := rfl
@[simp] theorem State.played_mcp : (s.played ls).mcp = s.mcp := rfl
@[simp] theorem State.played_status : (s.played ls).status = s.status := rfl
@[simp] theorem State.played_busy : (s.played ls).busy = s.busy := rfl
@[simp] theorem State.played_shifter : (s.played ls).shifter = s.shifter := rfl
@[simp] theorem State.played_cmds : (s.played ls).cmds = s.cmds := rfl
@[simp] theorem State.played_answers : (s.played ls).answers = s.answers.drop ls.length := rfl
@[simp] theorem State.played_waits : (s.played ls).waits = s.waits.drop ls.length := rfl
@[simp] theorem State.played_trace : (s.played ls).trace = s.trace ++ levelsEvents s.cfg ls := rfl
@[simp] theorem State.played_replies : (s.played ls).replies = s.replies := rfl
end

/-! The lines, one register at a time. -/

section
variable (l : Lines) (c : Chan) (b : Bool)
@[simp] theorem Lines.setCs_sck : (l.setCs c b).sck = l.sck := by cases c <;> rfl
@[simp] theorem Lines.setCs_sdo : (l.setCs c b).sdo = l.sdo := by cases c <;> rfl
@[simp] theorem Lines.setCs_cs_self : (l.setCs c b).cs c = b := by cases c <;> rfl
@[simp] theorem Lines.setSck_sck : (l.setSck b).sck = b := rfl
@[simp] theorem Lines.setSck_sdo : (l.setSck b).sdo = l.sdo := rfl
@[simp] theorem Lines.setSck_cs : (l.setSck b).cs c = l.cs c := by cases c <;> rfl
@[simp] theorem Lines.setSdo_sck : (l.setSdo b).sck = l.sck := rfl
@[simp] theorem Lines.setSdo_sdo : (l.setSdo b).sdo = b := rfl
@[simp] theorem Lines.setSdo_cs : (l.setSdo b).cs c = l.cs c := by cases c <;> rfl
theorem Lines.setCs_cs_other (h : c ≠ c') : (l.setCs c b).cs c' = l.cs c' := by
  cases c <;> cases c' <;> first | rfl | exact absurd rfl h
@[simp] theorem Lines.setCs_setCs (b' : Bool) : (l.setCs c b).setCs c b' = l.setCs c b' := by cases c <;> rfl
end

/-! A command after some of its lines. -/

section
variable (s : State) (f : State → Run)
@[simp] theorem Run.go_andThen : (Run.go s).andThen f = f s := rfl
@[simp] theorem Run.stop_andThen : (Run.stop s).andThen f = .stop s := rfl
@[simp] theorem Run.finish_go : (Run.go s).finish = s.close .ok := rfl
@[simp] theorem Run.finish_stop : (Run.stop s).finish = s := rfl
@[simp] theorem Run.andThen_assoc (r : Run) (g : State → Run) :
    (r.andThen f).andThen g = r.andThen fun t => (f t).andThen g := by cases r <;> rfl
@[simp] theorem require_true (e : Status) : require true e s = .go s := rfl
@[simp] theorem require_false (e : Status) : require false e s = raise e s := rfl
@[simp] theorem raise_andThen (e : Status) : (raise e s).andThen f = raise e s := rfl
@[simp] theorem raise_finish (e : Status) : (raise e s).finish = s.close e := rfl
end

end Sys2Proof.Machine
end

