-- ==== Sys2Proof/Laws/Ops.lean ====
section
/-! SUPPORT. What the shared operations can do: the two ports when they are ready, every way a request or a delay can
end, and the registers the engine's operations leave alone. -/

namespace Sys2Proof.Machine

variable {s t : State}

/-! ### Ready ports -/

theorem portsReady_mono {n m n' m' : Nat} (h : s.portsReady n m) (hn : n' ≤ n) (hm : m' ≤ m) :
    s.portsReady n' m' :=
  ⟨fun a ha => h.1 a ((List.take_subset_take_left _ hn) ha), fun w hw => h.2 w ((List.take_subset_take_left _ hm) hw)⟩

/-- Ready for `n + n'` requests: ready for `n`, and for `n'` more once those are answered. -/
theorem portsReady_add {n m n' m' : Nat} :
    s.portsReady (n + n') (m + m') ↔
      s.portsReady n m ∧ ((s.setAnswers (s.answers.drop n)).setWaits (s.waits.drop m)).portsReady n' m' := by
  simp only [State.portsReady, List.take_add, List.mem_append, State.setWaits_answers, State.setAnswers_answers,
    State.setWaits_waits]
  constructor
  · rintro ⟨h1, h2⟩
    exact ⟨⟨fun a ha => h1 a (.inl ha), fun w hw => h2 w (.inl hw)⟩,
      fun a ha => h1 a (.inr ha), fun w hw => h2 w (.inr hw)⟩
  · rintro ⟨⟨h1, h2⟩, h3, h4⟩
    exact ⟨fun a ha => ha.elim (h1 a) (h3 a), fun w hw => hw.elim (h2 w) (h4 w)⟩

/-- Readiness depends on nothing but the ports' inputs. -/
theorem portsReady_congr {n m : Nat} (ha : s.answers = t.answers) (hw : s.waits = t.waits) :
    s.portsReady n m ↔ t.portsReady n m := by simp only [State.portsReady, ha, hw]

theorem request_ready (e : Event) (h : s.portsReady 1 0) :
    request e s = .go ((s.log e).setAnswers (s.answers.drop 1)) := by
  rcases ha : s.answers with _ | ⟨a, as⟩
  · simp only [request, ha, List.drop_nil]; rw [← ha]; rfl
  · have : a = .success := h.1 a (by simp [ha])
    subst this; simp [request, ha]

theorem delay_ready (n : Nat) (h : s.portsReady 0 1) :
    delay n s = .go ((s.log (.dly n)).setWaits (s.waits.drop 1)) := by
  rcases hw : s.waits with _ | ⟨w, ws⟩
  · simp only [delay, hw, List.drop_nil]; rw [← hw]; rfl
  · have : w = .elapsed := h.2 w (by simp [hw])
    subst this; simp [delay, hw]

theorem stepLines_ready (l : Lines) (h : s.portsReady 1 1) : stepLines l s = .go (s.played [l]) := by
  have h1 : (s.setLines l).portsReady 1 0 := ⟨h.1, by simp⟩
  have h2 : (((s.setLines l).log (.drv s.cfg.dirMask (pack s.cfg l))).setAnswers (s.answers.drop 1)).portsReady 0 1 :=
    ⟨by simp, h.2⟩
  simp only [stepLines, gpioDrive, State.setLines_cfg, State.setLines_lines, request_ready _ h1, Run.go_andThen,
    State.setLines_answers, delay_ready _ h2]
  simp [State.played, State.setLines, State.log, State.setAnswers, State.setWaits, levelsEvents, levelEvents]

theorem played_nil : s.played [] = s := by simp [State.played, levelsEvents]

theorem played_append (ls ms : List Lines) : s.played (ls ++ ms) = (s.played ls).played ms := by
  simp only [State.played, levelsEvents, List.flatMap_append, List.append_assoc, List.length_append, List.drop_drop,
    State.mk.injEq, true_and, and_true]
  rcases ms with _ | ⟨m, ms⟩
  · simp
  · simp [List.getLastD_eq_getLast?, List.getLast?_append, List.getLast?_cons]

theorem portsReady_played (ls : List Lines) (n m : Nat) :
    (s.played ls).portsReady n m ↔
      ((s.setAnswers (s.answers.drop ls.length)).setWaits (s.waits.drop ls.length)).portsReady n m :=
  portsReady_congr rfl rfl

/-- A block of `k` requests and `k` delays, then a block of `k'`. -/
theorem portsReady_split (ls : List Lines) {n : Nat} (h : s.portsReady (ls.length + n) (ls.length + n)) :
    s.portsReady ls.length ls.length ∧ (s.played ls).portsReady n n := by
  rw [portsReady_played]; exact portsReady_add.1 h

theorem sendLevels_ready : ∀ (ls : List Lines) {s : State}, s.portsReady ls.length ls.length →
    sendLevels ls s = .go (s.played ls)
  | [], s, _ => by rw [played_nil]; rfl
  | l :: ls, s, h => by
    have h' : s.portsReady ([l].length + ls.length) ([l].length + ls.length) := by
      simpa [Nat.add_comm] using h
    obtain ⟨h1, h2⟩ := portsReady_split [l] h'
    rw [sendLevels, stepLines_ready l h1, Run.go_andThen, sendLevels_ready ls h2, ← played_append]; rfl

theorem sendLevels_append : ∀ (ls ms : List Lines) (s : State),
    sendLevels (ls ++ ms) s = (sendLevels ls s).andThen (sendLevels ms)
  | [], _, _ => rfl
  | l :: ls, ms, s => by
    simp only [List.cons_append, sendLevels, Run.andThen_assoc]
    congr 1; funext t; exact sendLevels_append ls ms t

/-! ### Every way a request and a delay end -/

theorem request_cases (e : Event) (s : State) :
    (∃ as, request e s = .go ((s.log e).setAnswers as)) ∨
      (∃ as, request e s = raise .gpioFault (((s.log e).setAnswers as).setBusOk false)) ∨
      ∃ as, request e s = .stop ((s.log e).setAnswers as) := by
  rcases ha : s.answers with _ | ⟨a, as⟩
  · refine .inl ⟨[], ?_⟩; simp only [request, ha]; rw [← ha]; rfl
  · cases a
    · exact .inl ⟨as, by simp [request, ha]⟩
    · exact .inr (.inl ⟨as, by simp [request, ha]⟩)
    · exact .inr (.inr ⟨as, by simp [request, ha]⟩)

theorem delay_cases (n : Nat) (s : State) :
    (∃ ws, delay n s = .go ((s.log (.dly n)).setWaits ws)) ∨
      ∃ ws, delay n s = .stop ((s.log (.dly n)).setWaits ws) := by
  rcases hw : s.waits with _ | ⟨w, ws⟩
  · refine .inl ⟨[], ?_⟩; simp only [delay, hw]; rw [← hw]; rfl
  · cases w
    · exact .inl ⟨ws, by simp [delay, hw]⟩
    · exact .inr ⟨ws, by simp [delay, hw]⟩

/-! ### What holds wherever a command is -/

/-- `P` holds of the state a command is in after some of its lines: `P true` where it goes on, `P false` where it has
stopped. -/
def Run.Holds (P : Bool → State → Prop) : Run → Prop
  | .go s => P true s
  | .stop s => P false s

theorem Run.Holds.andThen {P Q : Bool → State → Prop} {r : Run} {f : State → Run} (hr : r.Holds P)
    (hgo : ∀ t, P true t → (f t).Holds Q) (hstop : ∀ t, P false t → Q false t) : (r.andThen f).Holds Q := by
  cases r with
  | go t => exact hgo t hr
  | stop t => exact hstop t hr

theorem Run.Holds.mono {P Q : Bool → State → Prop} {r : Run} (hr : r.Holds P) (h : ∀ b t, P b t → Q b t) :
    r.Holds Q := by
  cases r with
  | go t => exact h _ t hr
  | stop t => exact h _ t hr

/-- What the ports and the engine never write: the configuration, the drivers' registers and the host's queue. -/
structure BusFrame (s t : State) : Prop where
  cfg : t.cfg = s.cfg
  ad : t.ad = s.ad
  mcp : t.mcp = s.mcp
  cmds : t.cmds = s.cmds

theorem BusFrame.refl (s : State) : BusFrame s s := ⟨rfl, rfl, rfl, rfl⟩

theorem BusFrame.trans {a b c : State} (h : BusFrame a b) (h' : BusFrame b c) : BusFrame a c :=
  ⟨h'.cfg.trans h.cfg, h'.ad.trans h.ad, h'.mcp.trans h.mcp, h'.cmds.trans h.cmds⟩

end Sys2Proof.Machine
end

