-- ==== Sys2Proof/Laws/Engine.lean ====
section
/-! SUPPORT. What the engine's procedures do: with ready ports they send exactly the levels of Machine/Frame.lean; in
every case they do to all registers but the shifter what sending those levels does; and the shifter presents the bits
by slot. -/

namespace Sys2Proof.Machine

variable {s : State}

/-! ### The shifter presents the bits by slot (R36, R103) -/

/-- The shifter after `n` bits. -/
def Shifter.advanceN (lsbf : Bool) : Nat → Shifter → Shifter
  | 0, sh => sh
  | n + 1, sh => Shifter.advanceN lsbf n (sh.advance lsbf)

/-- The bits the shifter presents in its next `n` slots. -/
def Shifter.outs (lsbf : Bool) : Nat → Shifter → List Bool
  | 0, _ => []
  | n + 1, sh => sh.out lsbf :: Shifter.outs lsbf n (sh.advance lsbf)

/-- What the shifter holds after `j` bits of word `w` at index `k`. -/
def Shifter.after (w : Word) (k : Nat) (lsbf : Bool) (j : Nat) : Shifter :=
  { shreg := if lsbf then w >>> j else w <<< j, bitcnt := BitVec.ofNat 5 j, widx := BitVec.ofNat 2 k }

theorem shifter_after_zero (w : Word) (k : Nat) (lsbf : Bool) : Shifter.load w k = Shifter.after w k lsbf 0 := by
  cases lsbf <;> simp [Shifter.load, Shifter.after]

theorem shifter_after_succ (w : Word) (k : Nat) (lsbf : Bool) (j : Nat) :
    (Shifter.after w k lsbf j).advance lsbf = Shifter.after w k lsbf (j + 1) := by
  cases lsbf <;> simp [Shifter.after, Shifter.advance, BitVec.ofNat_add, BitVec.shiftLeft_add, BitVec.shiftRight_add]

theorem shifter_after_out (w : Word) (k : Nat) (lsbf : Bool) {j : Nat} (h : j < 16) :
    (Shifter.after w k lsbf j).out lsbf = slotBit w j lsbf := by
  cases lsbf
  · have h1 : ¬ (15 < j) := by omega
    simp only [Shifter.after, Shifter.out, slotBit, Bool.false_eq_true, if_false, BitVec.getLsbD_shiftLeft]
    simp [h1]
  · simp [Shifter.after, Shifter.out, slotBit]

theorem shifter_after_outs (w : Word) (k : Nat) (lsbf : Bool) : ∀ (n j : Nat), j + n ≤ 16 →
    (Shifter.after w k lsbf j).outs lsbf n = (List.range' j n).map fun i => slotBit w i lsbf
  | 0, _, _ => rfl
  | n + 1, j, h => by
    rw [Shifter.outs, shifter_after_out w k lsbf (by omega), shifter_after_succ,
      shifter_after_outs w k lsbf n (j + 1) (by omega)]; rfl

theorem shifter_after_advanceN (w : Word) (k : Nat) (lsbf : Bool) : ∀ (n j : Nat),
    (Shifter.after w k lsbf j).advanceN lsbf n = Shifter.after w k lsbf (j + n)
  | 0, _ => rfl
  | n + 1, j => by
    rw [Shifter.advanceN, shifter_after_succ, shifter_after_advanceN w k lsbf n (j + 1)]
    congr 1; omega

/-- R36: the shifter form of a word is the slot form. -/
theorem load_outs (w : Word) (k : Nat) (lsbf : Bool) : (Shifter.load w k).outs lsbf 16 = wordBits w lsbf := by
  rw [shifter_after_zero w k lsbf, shifter_after_outs w k lsbf 16 0 (by omega), wordBits, List.range_eq_range']

theorem load_advanceN (w : Word) (k : Nat) (lsbf : Bool) :
    (Shifter.load w k).advanceN lsbf 16 = { shreg := 0#16, bitcnt := 16#5, widx := BitVec.ofNat 2 k } := by
  rw [shifter_after_zero w k lsbf, shifter_after_advanceN]
  cases lsbf
  · simp [Shifter.after]
  · simp [Shifter.after, BitVec.ushiftRight_eq_zero]

theorem wordBits_length (w : Word) (lsbf : Bool) : (wordBits w lsbf).length = 16 := by simp [wordBits]

/-! ### The levels of slots and words -/

theorem slotLevels_length (p : Profile) (l : Lines) (b : Bool) : (slotLevels p l b).length = 3 := by
  cases h : p.cpha <;> simp [slotLevels, h]

theorem slotsLevels_length (p : Profile) : ∀ (bs : List Bool) (l : Lines),
    (slotsLevels p l bs).length = 3 * bs.length
  | [], _ => rfl
  | b :: bs, l => by
    rw [slotsLevels, List.length_append, slotLevels_length, slotsLevels_length p bs, List.length_cons]; omega

/-- R104: one word is 51 writes. -/
theorem wordLevels_length (cfg : Config) (c : Chan) (p : Profile) (l : Lines) (w : Word) :
    (wordLevels cfg c p l w).length = 51 := by
  simp [wordLevels, slotsLevels_length, wordBits_length]

theorem wordsLevels_length (cfg : Config) (c : Chan) (p : Profile) : ∀ (ws : List Word) (l : Lines),
    (wordsLevels cfg c p l ws).length = 51 * ws.length
  | [], _ => rfl
  | w :: ws, l => by
    rw [wordsLevels, List.length_append, wordLevels_length, wordsLevels_length cfg c p ws, List.length_cons]; omega

theorem slotLevels_last (p : Profile) (l d : Lines) (b : Bool) :
    (slotLevels p l b).getLastD d = { l with sck := idleLevel p, sdo := b } := by
  cases h : p.cpha <;> simp [slotLevels, h]

theorem slotsLevels_last (p : Profile) : ∀ (bs : List Bool) (b : Bool) (l d : Lines),
    (slotsLevels p l (bs ++ [b])).getLastD d = { l with sck := idleLevel p, sdo := b }
  | [], b, l, d => by simpa [slotsLevels] using slotLevels_last p l d b
  | b' :: bs, b, l, d => by
    have hne : slotsLevels p { l with sck := idleLevel p, sdo := b' } (bs ++ [b]) ≠ [] := by
      intro h; have := congrArg List.length h; simp [slotsLevels_length] at this
    have ih := slotsLevels_last p bs b { l with sck := idleLevel p, sdo := b' } d
    rw [List.getLastD_eq_getLast?] at ih
    rw [List.cons_append, slotsLevels, List.getLastD_eq_getLast?, List.getLast?_append]
    rcases hx : (slotsLevels p { l with sck := idleLevel p, sdo := b' } (bs ++ [b])).getLast? with _ | x
    · exact absurd (List.getLast?_eq_none_iff.1 hx) hne
    · rw [hx] at ih; simpa using ih

theorem wordBits_last (w : Word) (lsbf : Bool) :
    wordBits w lsbf = ((List.range 15).map fun j => slotBit w j lsbf) ++ [slotBit w 15 lsbf] := by
  rw [wordBits, List.range_succ, List.map_append]; rfl

theorem wordLevels_last (cfg : Config) (c : Chan) (p : Profile) (l d : Lines) (w : Word) :
    (wordLevels cfg c p l w).getLastD d = wordEnd cfg c p l := by
  rw [wordLevels, List.getLastD_eq_getLast?, List.getLast?_append]; rfl

theorem wordEnd_wordEnd (cfg : Config) (c : Chan) (p : Profile) (l : Lines) :
    wordEnd cfg c p (wordEnd cfg c p l) = wordEnd cfg c p l := by cases c <;> rfl

theorem wordsLevels_last (cfg : Config) (c : Chan) (p : Profile) : ∀ (ws : List Word) (l d : Lines), ws ≠ [] →
    (wordsLevels cfg c p l ws).getLastD d = wordEnd cfg c p l
  | [], _, _, h => absurd rfl h
  | [w], l, d, _ => by simpa [wordsLevels] using wordLevels_last cfg c p l d w
  | w :: v :: ws, l, d, _ => by
    have ih := wordsLevels_last cfg c p (v :: ws) (wordEnd cfg c p l) (wordEnd cfg c p l) (by simp)
    rw [List.getLastD_eq_getLast?, wordEnd_wordEnd] at ih
    rw [wordsLevels, List.getLastD_eq_getLast?, List.getLast?_append]
    rcases hx : (wordsLevels cfg c p (wordEnd cfg c p l) (v :: ws)).getLast? with _ | x
    · have := congrArg List.length (List.getLast?_eq_none_iff.1 hx)
      simp [wordsLevels_length] at this
    · rw [hx] at ih; simpa using ih

/-! ### With ready ports -/

theorem setShifter_played (sh : Shifter) (ls : List Lines) :
    (s.setShifter sh).played ls = (s.played ls).setShifter sh := rfl

theorem portsReady_setShifter (sh : Shifter) (n m : Nat) :
    (s.setShifter sh).portsReady n m ↔ s.portsReady n m := Iff.rfl

/-- What a `Step()` that goes on leaves alone, and the lines it leaves. -/
theorem stepLines_go {l : Lines} {t : State} (h : stepLines l s = .go t) :
    t.lines = l ∧ t.cfg = s.cfg ∧ t.shifter = s.shifter := by
  rcases request_cases (.drv s.cfg.dirMask (pack s.cfg l)) (s.setLines l) with ⟨as, hr⟩ | ⟨as, hr⟩ | ⟨as, hr⟩
  · rcases delay_cases s.cfg.tBitUs
        (((s.setLines l).log (.drv s.cfg.dirMask (pack s.cfg l))).setAnswers as) with ⟨ws, hd⟩ | ⟨ws, hd⟩
    · simp only [stepLines, gpioDrive, State.setLines_cfg, State.setLines_lines, hr, Run.go_andThen,
        State.setAnswers_cfg, State.log_cfg, hd, Run.go.injEq] at h
      subst h; exact ⟨rfl, rfl, rfl⟩
    · simp [stepLines, gpioDrive, hr, hd] at h
  · simp [stepLines, gpioDrive, hr, raise] at h
  · simp [stepLines, gpioDrive, hr] at h

/-- After a `Step()` only what follows from its lines matters. -/
theorem stepLines_andThen_congr {l : Lines} {f g : State → Run}
    (h : ∀ t, t.lines = l → t.cfg = s.cfg → t.shifter = s.shifter → f t = g t) :
    (stepLines l s).andThen f = (stepLines l s).andThen g := by
  cases hr : stepLines l s with
  | go t => obtain ⟨h1, h2, h3⟩ := stepLines_go hr; exact h t h1 h2 h3
  | stop t => rfl

theorem sendLevels_go : ∀ {ls : List Lines} {s t : State}, sendLevels ls s = .go t →
    t.lines = ls.getLastD s.lines ∧ t.cfg = s.cfg ∧ t.shifter = s.shifter
  | [], s, t, h => by cases h; exact ⟨rfl, rfl, rfl⟩
  | l :: ls, s, t, h => by
    rw [sendLevels] at h
    cases hr : stepLines l s with
    | go u =>
      rw [hr, Run.go_andThen] at h
      obtain ⟨h1, h2, h3⟩ := stepLines_go hr
      obtain ⟨i1, i2, i3⟩ := sendLevels_go h
      refine ⟨?_, i2.trans h2, i3.trans h3⟩
      rw [i1, h1]; simp [List.getLastD_eq_getLast?, List.getLast?_cons]
    | stop u => rw [hr] at h; cases h

theorem sendLevels_andThen_congr {ls : List Lines} {f g : State → Run}
    (h : ∀ t, t.lines = ls.getLastD s.lines → t.cfg = s.cfg → t.shifter = s.shifter → f t = g t) :
    (sendLevels ls s).andThen f = (sendLevels ls s).andThen g := by
  cases hr : sendLevels ls s with
  | go t => obtain ⟨h1, h2, h3⟩ := sendLevels_go hr; exact h t h1 h2 h3
  | stop t => rfl

/-- R104: a bit slot sends its three levels, then the shifter advances. -/
theorem bitSlot_sends (p : Profile) (s : State) :
    bitSlot p s = (sendLevels (slotLevels p s.lines (s.shifter.out p.lsbf)) s).andThen
      fun t => .go (t.setShifter (s.shifter.advance p.lsbf)) := by
  cases h : p.cpha
  all_goals
    simp only [bitSlot, h, slotLevels, sendLevels, Bool.false_eq_true, if_false, if_true, Run.andThen_assoc,
      Run.go_andThen]
    refine stepLines_andThen_congr fun t h1 _ h3 => ?_
    rw [h1]
    refine stepLines_andThen_congr fun u h4 _ h6 => ?_
    rw [h4]
    refine stepLines_andThen_congr fun v _ _ h9 => ?_
    rw [h9, h6, h3]

/-- Everything but the shifter. -/
def State.forget (s : State) : State := s.setShifter { shreg := 0#16, bitcnt := 0#5, widx := 0#2 }

def Run.forget : Run → Run
  | .go s => .go s.forget
  | .stop s => .stop s.forget

theorem forget_setShifter (sh : Shifter) : (s.setShifter sh).forget = s.forget := rfl

theorem Run.forget_andThen (r : Run) (f g : State → Run) (h : ∀ t, (f t).forget = (g t.forget).forget) :
    (r.andThen f).forget = (r.forget.andThen g).forget := by
  cases r with
  | go t => exact h t
  | stop t => rfl

theorem request_setShifter (e : Event) (sh : Shifter) :
    request e (s.setShifter sh) = match request e s with
      | .go t => .go (t.setShifter sh)
      | .stop t => .stop (t.setShifter sh) := by
  rcases ha : s.answers with _ | ⟨a, as⟩
  · simp only [request, State.setShifter_answers, ha]; rfl
  · cases a <;> simp only [request, State.setShifter_answers, ha] <;> rfl

theorem delay_setShifter (n : Nat) (sh : Shifter) :
    delay n (s.setShifter sh) = match delay n s with
      | .go t => .go (t.setShifter sh)
      | .stop t => .stop (t.setShifter sh) := by
  rcases hw : s.waits with _ | ⟨w, ws⟩
  · simp only [delay, State.setShifter_waits, hw]; rfl
  · cases w <;> simp only [delay, State.setShifter_waits, hw] <;> rfl

/-- The ports do not read the shifter. -/
theorem stepLines_setShifter (l : Lines) (sh : Shifter) :
    stepLines l (s.setShifter sh) = match stepLines l s with
      | .go t => .go (t.setShifter sh)
      | .stop t => .stop (t.setShifter sh) := by
  have h1 : (s.setShifter sh).setLines l = (s.setLines l).setShifter sh := rfl
  simp only [stepLines, gpioDrive, h1, State.setShifter_cfg, State.setLines_cfg, State.setShifter_lines,
    request_setShifter]
  cases request (.drv s.cfg.dirMask (pack s.cfg (s.setLines l).lines)) (s.setLines l) with
  | go t => simp only [Run.go_andThen, State.setShifter_cfg, delay_setShifter]
  | stop t => rfl

theorem sendLevels_setShifter : ∀ (ls : List Lines) (s : State) (sh : Shifter),
    sendLevels ls (s.setShifter sh) = match sendLevels ls s with
      | .go t => .go (t.setShifter sh)
      | .stop t => .stop (t.setShifter sh)
  | [], _, _ => rfl
  | l :: ls, s, sh => by
    rw [sendLevels, stepLines_setShifter, sendLevels]
    cases stepLines l s with
    | go t => simp only [Run.go_andThen, sendLevels_setShifter ls t sh]
    | stop t => rfl

theorem sendLevels_forget (ls : List Lines) (s : State) :
    sendLevels ls s.forget = (sendLevels ls s).forget := by
  rw [State.forget, sendLevels_setShifter]; cases sendLevels ls s <;> rfl

/-- Every way `n` bit slots can run is the way their levels are sent; the shifter has advanced if they all were. -/
theorem bitSlots_sends (p : Profile) : ∀ (n : Nat) (s : State),
    (bitSlots p n s).forget = (sendLevels (slotsLevels p s.lines (s.shifter.outs p.lsbf n)) s).forget ∧
      ∀ t, bitSlots p n s = .go t → t.shifter = s.shifter.advanceN p.lsbf n
  | 0, s => ⟨rfl, fun t h => by cases h; rfl⟩
  | n + 1, s => by
    have key : ∀ t, sendLevels (slotLevels p s.lines (s.shifter.out p.lsbf)) s = .go t →
        t.lines = { s.lines with sck := idleLevel p, sdo := s.shifter.out p.lsbf } := fun t h => by
      rw [(sendLevels_go h).1, slotLevels_last]
    rw [bitSlots, bitSlot_sends, Shifter.outs, slotsLevels, sendLevels_append]
    cases hr : sendLevels (slotLevels p s.lines (s.shifter.out p.lsbf)) s with
    | stop t => exact ⟨rfl, fun t h => by cases h⟩
    | go t =>
      simp only [Run.go_andThen]
      obtain ⟨i1, i2⟩ := bitSlots_sends p n (t.setShifter (s.shifter.advance p.lsbf))
      refine ⟨?_, fun u hu => ?_⟩
      · rw [i1, State.setShifter_lines, State.setShifter_shifter, key t hr, ← sendLevels_forget, forget_setShifter,
          sendLevels_forget]
      · rw [i2 u hu]; rfl

/-- R104: every way a word transfer can run is the way its 51 levels are sent. -/
theorem transferWord_sends (c : Chan) (p : Profile) (k : Nat) (w : Word) (s : State) :
    (transferWord c p k w s).forget = (sendLevels (wordLevels s.cfg c p s.lines w) s).forget ∧
      ∀ t, transferWord c p k w s = .go t →
        t.shifter = { shreg := 0#16, bitcnt := 16#5, widx := BitVec.ofNat 2 k } := by
  rw [transferWord, stepLines_setShifter, wordLevels, sendLevels_append, sendLevels_append]
  simp only [sendLevels, Run.andThen_assoc, Run.go_andThen]
  cases hr : stepLines (s.lines.setCs c false) s with
  | stop t => exact ⟨rfl, fun t h => by cases h⟩
  | go t =>
    obtain ⟨h1, h2, -⟩ := stepLines_go hr
    obtain ⟨i1, i2⟩ := bitSlots_sends p 16 (t.setShifter (Shifter.load w k))
    simp only [State.setShifter_lines, State.setShifter_shifter, load_outs, load_advanceN, h1] at i1 i2
    simp only [Run.go_andThen]
    rw [← sendLevels_forget, forget_setShifter, sendLevels_forget] at i1
    have hlast : ∀ u, sendLevels (slotsLevels p (s.lines.setCs c false) (wordBits w p.lsbf)) t = .go u →
        u.lines = { s.lines.setCs c false with sck := idleLevel p, sdo := slotBit w 15 p.lsbf } ∧ u.cfg = s.cfg := by
      intro u hu
      obtain ⟨j1, j2, -⟩ := sendLevels_go hu
      rw [wordBits_last, slotsLevels_last] at j1
      exact ⟨j1, j2.trans h2⟩
    cases hb : bitSlots p 16 (t.setShifter (Shifter.load w k)) with
    | stop u =>
      rw [hb] at i1
      cases hs : sendLevels (slotsLevels p (s.lines.setCs c false) (wordBits w p.lsbf)) t with
      | stop v => rw [hs] at i1; exact ⟨i1, fun t h => by cases h⟩
      | go v => rw [hs] at i1; cases i1
    | go u =>
      rw [hb] at i1
      cases hs : sendLevels (slotsLevels p (s.lines.setCs c false) (wordBits w p.lsbf)) t with
      | stop v => rw [hs] at i1; cases i1
      | go v =>
        rw [hs] at i1
        obtain ⟨hl, hc⟩ := hlast v hs
        have huv : u = v.setShifter u.shifter := by
          have := (Run.go.inj i1)
          have h2 : u = u.forget.setShifter u.shifter := rfl
          rw [h2, this]; rfl
        have hsh := i2 u hb
        rw [huv, hsh]
        simp only [Run.go_andThen, State.setShifter_lines, stepLines_setShifter, hl]
        have hcs : ({ s.lines.setCs c false with sck := idleLevel p, sdo := slotBit w 15 p.lsbf } : Lines).setCs c true
            = { s.lines.setCs c true with sck := idleLevel p, sdo := slotBit w 15 p.lsbf } := by cases c <;> rfl
        rw [hcs]
        cases h4 : stepLines { s.lines.setCs c true with sck := idleLevel p, sdo := slotBit w 15 p.lsbf } v with
        | stop x => exact ⟨rfl, fun t h => by cases h⟩
        | go x =>
          obtain ⟨k1, k2, -⟩ := stepLines_go h4
          have hend : ((x.lines.setSck (idleLevel p)).setSdo x.cfg.sdoIdle) = wordEnd s.cfg c p s.lines := by
            rw [k1, k2, hc]; cases c <;> rfl
          simp only [Run.go_andThen, State.setShifter_lines, State.setShifter_cfg, stepLines_setShifter, hend]
          cases h5 : stepLines (wordEnd s.cfg c p s.lines) x with
          | stop y => exact ⟨rfl, fun t h => by cases h⟩
          | go y => exact ⟨rfl, fun t h => by cases h; rfl⟩

/-- R107: every way the words of a transfer can run is the way their levels are sent. -/
theorem transferWords_sends (c : Chan) (p : Profile) : ∀ (ws : List Word) (k : Nat) (s : State),
    (transferWords c p k ws s).forget = (sendLevels (wordsLevels s.cfg c p s.lines ws) s).forget ∧
      ∀ t, transferWords c p k ws s = .go t → t.shifter = if ws = [] then s.shifter else
        { shreg := 0#16, bitcnt := 16#5, widx := BitVec.ofNat 2 (k + ws.length - 1) }
  | [], k, s => ⟨rfl, fun t h => by cases h; rfl⟩
  | w :: ws, k, s => by
    obtain ⟨i1, i2⟩ := transferWord_sends c p k w s
    rw [transferWords, wordsLevels, sendLevels_append]
    cases hr : transferWord c p k w s with
    | stop u =>
      rw [hr] at i1
      cases hs : sendLevels (wordLevels s.cfg c p s.lines w) s with
      | stop v => rw [hs] at i1; exact ⟨i1, fun t h => by cases h⟩
      | go v => rw [hs] at i1; cases i1
    | go u =>
      rw [hr] at i1
      cases hs : sendLevels (wordLevels s.cfg c p s.lines w) s with
      | stop v => rw [hs] at i1; cases i1
      | go v =>
        rw [hs] at i1
        obtain ⟨h1, h2, -⟩ := sendLevels_go hs
        rw [wordLevels_last] at h1
        have huv : u = v.setShifter u.shifter := by
          have h3 : u = u.forget.setShifter u.shifter := rfl
          rw [h3, Run.go.inj i1]; rfl
        have hsh := i2 u hr
        obtain ⟨j1, j2⟩ := transferWords_sends c p ws (k + 1) u
        simp only [Run.go_andThen]
        refine ⟨?_, fun t ht => ?_⟩
        · rw [j1, ← sendLevels_forget]
          have hf : u.forget = v.forget := Run.go.inj i1
          have hl : u.lines = v.lines := by rw [huv]; rfl
          have hc : u.cfg = v.cfg := by rw [huv]; rfl
          rw [hf, hl, hc, sendLevels_forget, h1, h2]
        · rw [j2 t ht]
          rcases ws with _ | ⟨w', ws⟩
          · simp [hsh]
          · simp only [List.cons_ne_nil, if_false, List.length_cons]
            congr 3; omega

/-- R104, R107, R109: a transfer with ready ports on a good bus sends exactly its levels. -/
theorem transfer_ready {ws : List Word} (c : Chan) (p : Profile) (hne : ws ≠ []) (hb : s.busOk = true)
    (h : s.portsReady (51 * ws.length) (51 * ws.length)) : transfer ws c p s = .go (s.sent c p ws) := by
  obtain ⟨h1, h2⟩ := transferWords_sends c p ws 0 s
  rw [sendLevels_ready _ (by rwa [wordsLevels_length])] at h1
  rw [transfer, hb, require_true, Run.go_andThen]
  cases hr : transferWords c p 0 ws s with
  | stop t => rw [hr] at h1; cases h1
  | go t =>
    rw [hr] at h1
    have h3 := h2 t hr
    have h4 : t = t.forget.setShifter t.shifter := rfl
    rw [if_neg hne] at h3
    rw [h4, Run.go.inj h1, h3, State.sent, shifterDone, Nat.zero_add]; rfl

/-- R103, U2: most significant bit first, or with the switch on, what is sent of a word is the word. -/
theorem sentWord_eq {cfg : Config} {p : Profile} (h : p.lsbf = false ∨ cfg.allowLsbf = true) (w : Word) :
    sentWord cfg p w = w := by rcases h with h | h <;> simp [sentWord, h]

theorem sentWords_eq {cfg : Config} {p : Profile} (h : p.lsbf = false ∨ cfg.allowLsbf = true) (ws : List Word) :
    ws.map (sentWord cfg p) = ws := (List.map_congr_left fun w _ => sentWord_eq h w).trans (List.map_id _)

/-- R107, R194: with `BUS_OK = 0` a transfer raises `GpioFault` and does nothing else. -/
theorem transfer_busOk_false (ws : List Word) (c : Chan) (p : Profile) (hb : s.busOk = false) :
    transfer ws c p s = raise .gpioFault s := by rw [transfer, hb]; rfl

/-- R106: idle configuration with ready ports. -/
theorem cfgIdleProc_ready (p : Profile) (h : s.portsReady 1 1) : cfgIdleProc p s = .go (s.idled p) := by
  have h1 : (s.setLines (Lines.idle s.cfg (idleLevel p))).portsReady 1 0 := ⟨h.1, by simp⟩
  have h2 : ∀ e, (((s.setLines (Lines.idle s.cfg (idleLevel p))).log e).setAnswers (s.answers.drop 1)).portsReady 0 1 :=
    fun e => ⟨by simp, h.2⟩
  simp only [cfgIdleProc, gpioConfigure, request_ready _ h1, Run.go_andThen, State.setLines_answers,
    delay_ready _ (h2 _)]
  simp [State.idled, State.setLines, State.log, State.setAnswers, State.setWaits, State.setBusOk, idleLevel]

/-- R106: idle configuration that the adapter rejects. -/
theorem cfgIdleProc_rejected (p : Profile) (h : s.answers.head? = some .failure) :
    cfgIdleProc p s = raise .gpioFault (s.idleRejected p) := by
  rcases ha : s.answers with _ | ⟨a, as⟩
  · simp [ha] at h
  · have : a = .failure := by simpa [ha] using h
    subst this
    simp [cfgIdleProc, gpioConfigure, request, ha, raise, State.idleRejected, State.setLines, State.log,
      State.setAnswers, State.setBusOk, idleLevel]

end Sys2Proof.Machine
end

