-- ==== Sys2Proof/Laws/Outcomes.lean ====
section
/-! SUPPORT. Every way the engine's procedures can end: the inversion lemmas the invariant, frame and count proofs cite
instead of unfolding a transfer. -/

namespace Sys2Proof.Machine

variable {s : State}

/-- A state that differs from `s` only in what the engine and the ports write: lines, `BUS_OK`, shifter, the ports'
inputs, and events `es` more in the trace. -/
def State.onBus (s : State) (l : Lines) (es : List Event) (b : Bool) (sh : Shifter) (as : List Answer)
    (ws : List Wait) : State :=
  { s with lines := l, trace := s.trace ++ es, busOk := b, shifter := sh, answers := as, waits := ws }

section
variable (l : Lines) (es : List Event) (b : Bool) (sh : Shifter) (as : List Answer) (ws : List Wait)
@[simp] theorem State.onBus_cfg : (s.onBus l es b sh as ws).cfg = s.cfg := rfl
@[simp] theorem State.onBus_lines : (s.onBus l es b sh as ws).lines = l := rfl
@[simp] theorem State.onBus_busOk : (s.onBus l es b sh as ws).busOk = b := rfl
@[simp] theorem State.onBus_ad : (s.onBus l es b sh as ws).ad = s.ad := rfl
@[simp] theorem State.onBus_mcp : (s.onBus l es b sh as ws).mcp = s.mcp := rfl
@[simp] theorem State.onBus_status : (s.onBus l es b sh as ws).status = s.status := rfl
@[simp] theorem State.onBus_busy : (s.onBus l es b sh as ws).busy = s.busy := rfl
@[simp] theorem State.onBus_shifter : (s.onBus l es b sh as ws).shifter = sh := rfl
@[simp] theorem State.onBus_cmds : (s.onBus l es b sh as ws).cmds = s.cmds := rfl
@[simp] theorem State.onBus_answers : (s.onBus l es b sh as ws).answers = as := rfl
@[simp] theorem State.onBus_waits : (s.onBus l es b sh as ws).waits = ws := rfl
@[simp] theorem State.onBus_trace : (s.onBus l es b sh as ws).trace = s.trace ++ es := rfl
@[simp] theorem State.onBus_replies : (s.onBus l es b sh as ws).replies = s.replies := rfl
end

/-- The request that sends the levels `l`. -/
def drvOf (cfg : Config) (l : Lines) : Event := .drv cfg.dirMask (pack cfg l)

/-- How sending the levels `ls` from `s` can end: all sent; request `k` failed; request `k` or the delay after it never
answered. -/
inductive SendEnds (s : State) (ls : List Lines) : Run → Prop
  | sent (sh as ws) (ha : as <:+ s.answers) (hw : ws <:+ s.waits) :
      SendEnds s ls (.go (s.onBus (ls.getLastD s.lines) (levelsEvents s.cfg ls) s.busOk sh as ws))
  | failed (k l sh as ws) (h : ls[k]? = some l) :
      SendEnds s ls (.stop
        ((s.onBus l (levelsEvents s.cfg (ls.take k) ++ [drvOf s.cfg l]) false sh as ws).close .gpioFault))
  | unanswered (k l sh as ws) (h : ls[k]? = some l) (hn : Answer.never ∈ s.answers) :
      SendEnds s ls (.stop (s.onBus l (levelsEvents s.cfg (ls.take k) ++ [drvOf s.cfg l]) s.busOk sh as ws))
  | waiting (k l sh as ws) (h : ls[k]? = some l) (hn : Wait.never ∈ s.waits) :
      SendEnds s ls (.stop (s.onBus l (levelsEvents s.cfg (ls.take (k + 1))) s.busOk sh as ws))

/-- One `Step()`, in every case. -/
theorem stepLines_ends (l : Lines) (s : State) :
    (∃ as ws, stepLines l s = .go (s.onBus l (levelEvents s.cfg l) s.busOk s.shifter as ws) ∧ as <:+ s.answers ∧
      ws <:+ s.waits) ∨
    (∃ as ws, stepLines l s = raise .gpioFault (s.onBus l [drvOf s.cfg l] false s.shifter as ws)) ∨
    (∃ as ws, stepLines l s = .stop (s.onBus l [drvOf s.cfg l] s.busOk s.shifter as ws) ∧ Answer.never ∈ s.answers) ∨
    (∃ as ws, stepLines l s = .stop (s.onBus l (levelEvents s.cfg l) s.busOk s.shifter as ws) ∧
      Wait.never ∈ s.waits) := by
  have hd : ∀ as, as <:+ s.answers →
      (∃ ws, delay s.cfg.tBitUs (((s.setLines l).log (drvOf s.cfg l)).setAnswers as) =
        .go (s.onBus l (levelEvents s.cfg l) s.busOk s.shifter as ws) ∧ ws <:+ s.waits) ∨
      (∃ ws, delay s.cfg.tBitUs (((s.setLines l).log (drvOf s.cfg l)).setAnswers as) =
        .stop (s.onBus l (levelEvents s.cfg l) s.busOk s.shifter as ws) ∧ Wait.never ∈ s.waits) := by
    intro as _
    rcases hw : s.waits with _ | ⟨w, ws⟩
    · refine .inl ⟨[], ?_, by simp⟩
      simp [delay, hw, State.onBus, State.log, State.setLines, State.setAnswers, levelEvents, drvOf]
    · cases w
      · refine .inl ⟨ws, ?_, List.suffix_cons _ _⟩
        simp [delay, hw, State.onBus, State.log, State.setLines, State.setAnswers, State.setWaits, levelEvents, drvOf]
      · refine .inr ⟨ws, ?_, by simp⟩
        simp [delay, hw, State.onBus, State.log, State.setLines, State.setAnswers, State.setWaits, levelEvents, drvOf]
  have hgo : ∀ as, as <:+ s.answers →
      request (drvOf s.cfg l) (s.setLines l) = .go (((s.setLines l).log (drvOf s.cfg l)).setAnswers as) →
      (∃ as ws, stepLines l s = .go (s.onBus l (levelEvents s.cfg l) s.busOk s.shifter as ws) ∧ as <:+ s.answers ∧
        ws <:+ s.waits) ∨
      (∃ as ws, stepLines l s = .stop (s.onBus l (levelEvents s.cfg l) s.busOk s.shifter as ws) ∧
        Wait.never ∈ s.waits) := by
    intro as hs hr
    have hst : stepLines l s = delay s.cfg.tBitUs (((s.setLines l).log (drvOf s.cfg l)).setAnswers as) := by
      rw [stepLines, gpioDrive]; exact (congrArg (Run.andThen · _) hr)
    rcases hd as hs with ⟨ws, h, hw⟩ | ⟨ws, h, hw⟩
    · exact .inl ⟨as, ws, hst.trans h, hs, hw⟩
    · exact .inr ⟨as, ws, hst.trans h, hw⟩
  rcases ha : s.answers with _ | ⟨a, as⟩
  · have hr : request (drvOf s.cfg l) (s.setLines l) = .go (((s.setLines l).log (drvOf s.cfg l)).setAnswers []) := by
      simp only [request, State.setLines_answers, ha]; rw [← ha]; rfl
    rcases hgo [] (by simp) hr with h | h
    · rw [ha] at h; exact .inl h
    · exact .inr (.inr (.inr h))
  · cases a
    · have hr : request (drvOf s.cfg l) (s.setLines l) = .go (((s.setLines l).log (drvOf s.cfg l)).setAnswers as) := by
        simp only [request, State.setLines_answers, ha]
      rcases hgo as (by rw [ha]; exact List.suffix_cons _ _) hr with h | h
      · rw [ha] at h; exact .inl h
      · exact .inr (.inr (.inr h))
    · refine .inr (.inl ⟨as, s.waits, ?_⟩)
      simp [stepLines, gpioDrive, request, ha, State.onBus, State.log, State.setLines, State.setAnswers,
        State.setBusOk, drvOf]
    · refine .inr (.inr (.inl ⟨as, s.waits, ?_, by simp⟩))
      simp [stepLines, gpioDrive, request, ha, State.onBus, State.log, State.setLines, State.setAnswers, drvOf]

theorem onBus_onBus (l l' : Lines) (es es' : List Event) (b b' : Bool) (sh sh' : Shifter) (as as' : List Answer)
    (ws ws' : List Wait) : (s.onBus l es b sh as ws).onBus l' es' b' sh' as' ws' =
      s.onBus l' (es ++ es') b' sh' as' ws' := by
  simp [State.onBus, List.append_assoc]

/-- Sending levels, in every case. -/
theorem sendLevels_ends : ∀ (ls : List Lines) (s : State), SendEnds s ls (sendLevels ls s)
  | [], s => by
    have h := SendEnds.sent (s := s) (ls := []) s.shifter s.answers s.waits (List.suffix_refl _) (List.suffix_refl _)
    simpa [State.onBus, levelsEvents, sendLevels] using h
  | l :: ls, s => by
    rw [sendLevels]
    rcases stepLines_ends l s with ⟨as, ws, h, ha, hw⟩ | ⟨as, ws, h⟩ | ⟨as, ws, h, hn⟩ | ⟨as, ws, h, hn⟩
    · rw [h, Run.go_andThen]
      have ih := sendLevels_ends ls (s.onBus l (levelEvents s.cfg l) s.busOk s.shifter as ws)
      generalize sendLevels ls (s.onBus l (levelEvents s.cfg l) s.busOk s.shifter as ws) = r at ih
      cases ih with
      | sent sh as' ws' ha' hw' =>
        rw [onBus_onBus]
        have hlast : ls.getLastD l = (l :: ls).getLastD s.lines := by
          simp [List.getLastD_eq_getLast?, List.getLast?_cons]
        have := SendEnds.sent (s := s) (ls := l :: ls) sh as' ws' (ha'.trans ha) (hw'.trans hw)
        rw [← hlast] at this
        simpa [levelsEvents] using this
      | failed k l' sh as' ws' hk =>
        rw [onBus_onBus, State.onBus_cfg]
        have := SendEnds.failed (s := s) (ls := l :: ls) (k + 1) l' sh as' ws' (by simpa using hk)
        simpa [levelsEvents, List.append_assoc] using this
      | unanswered k l' sh as' ws' hk hn =>
        rw [onBus_onBus]
        have := SendEnds.unanswered (s := s) (ls := l :: ls) (k + 1) l' sh as' ws' (by simpa using hk)
          (ha.subset hn)
        simpa [levelsEvents, List.append_assoc] using this
      | waiting k l' sh as' ws' hk hn =>
        rw [onBus_onBus]
        have := SendEnds.waiting (s := s) (ls := l :: ls) (k + 1) l' sh as' ws' (by simpa using hk)
          (hw.subset hn)
        simpa [levelsEvents, List.append_assoc] using this
    · rw [h, raise_andThen, raise]
      simpa [levelsEvents] using SendEnds.failed (s := s) (ls := l :: ls) 0 l s.shifter as ws rfl
    · rw [h, Run.stop_andThen]
      simpa [levelsEvents] using SendEnds.unanswered (s := s) (ls := l :: ls) 0 l s.shifter as ws rfl hn
    · rw [h, Run.stop_andThen]
      simpa [levelsEvents] using SendEnds.waiting (s := s) (ls := l :: ls) 0 l s.shifter as ws rfl hn

/-- What `SendEnds` says does not depend on the shifter. -/
theorem SendEnds.of_forget {ls : List Lines} {r r' : Run} (h : SendEnds s ls r) (hf : r'.forget = r.forget) :
    SendEnds s ls r' := by
  have key : ∀ {t u : State}, t.forget = u.forget → t = u.setShifter t.shifter := fun {t u} e => by
    have h1 : t = t.forget.setShifter t.shifter := rfl
    rw [h1, e]; rfl
  cases h with
  | sent sh as ws ha hw =>
    cases r' with
    | stop t => cases hf
    | go t => rw [key (Run.go.inj hf)]; exact SendEnds.sent t.shifter as ws ha hw
  | failed k l sh as ws hk =>
    cases r' with
    | go t => cases hf
    | stop t => rw [key (Run.stop.inj hf)]; exact SendEnds.failed k l t.shifter as ws hk
  | unanswered k l sh as ws hk hn =>
    cases r' with
    | go t => cases hf
    | stop t => rw [key (Run.stop.inj hf)]; exact SendEnds.unanswered k l t.shifter as ws hk hn
  | waiting k l sh as ws hk hn =>
    cases r' with
    | go t => cases hf
    | stop t => rw [key (Run.stop.inj hf)]; exact SendEnds.waiting k l t.shifter as ws hk hn

/-- R107, R108: a transfer on a good bus, in every case. -/
theorem transfer_ends (ws : List Word) (c : Chan) (p : Profile) (hb : s.busOk = true) :
    SendEnds s (wordsLevels s.cfg c p s.lines ws) (transfer ws c p s) := by
  rw [transfer, hb, require_true, Run.go_andThen]
  exact (sendLevels_ends _ s).of_forget (transferWords_sends c p ws 0 s).1

/-- R106: idle configuration, in every case. -/
theorem cfgIdleProc_ends (p : Profile) (s : State) :
    let l := Lines.idle s.cfg p.cpol
    let e := Event.cfg s.cfg.enMask s.cfg.dirMask (pack s.cfg l)
    (∃ as ws, cfgIdleProc p s = .go (s.onBus l [e, .dly s.cfg.tSettleUs] true s.shifter as ws)) ∨
    (∃ as ws, cfgIdleProc p s = raise .gpioFault (s.onBus l [e] false s.shifter as ws)) ∨
    (∃ as ws, cfgIdleProc p s = .stop (s.onBus l [e] s.busOk s.shifter as ws) ∧ Answer.never ∈ s.answers) ∨
    (∃ as ws, cfgIdleProc p s = .stop (s.onBus l [e, .dly s.cfg.tSettleUs] s.busOk s.shifter as ws) ∧
      Wait.never ∈ s.waits) := by
  intro l e
  have hgo : ∀ as, request e (s.setLines l) = .go (((s.setLines l).log e).setAnswers as) →
      (∃ as ws, cfgIdleProc p s = .go (s.onBus l [e, .dly s.cfg.tSettleUs] true s.shifter as ws)) ∨
      (∃ as ws, cfgIdleProc p s = .stop (s.onBus l [e, .dly s.cfg.tSettleUs] s.busOk s.shifter as ws) ∧
        Wait.never ∈ s.waits) := by
    intro as hr
    have hst : cfgIdleProc p s = (delay s.cfg.tSettleUs (((s.setLines l).log e).setAnswers as)).andThen
        fun t => .go (t.setBusOk true) := by
      rw [cfgIdleProc, gpioConfigure]; exact congrArg (Run.andThen · _) hr
    rw [hst]
    rcases hw : s.waits with _ | ⟨w, ws⟩
    · refine .inl ⟨as, [], ?_⟩
      simp [delay, hw, State.onBus, State.log, State.setLines, State.setAnswers, State.setBusOk]
    · cases w
      · refine .inl ⟨as, ws, ?_⟩
        simp [delay, hw, State.onBus, State.log, State.setLines, State.setAnswers, State.setWaits, State.setBusOk]
      · refine .inr ⟨as, ws, ?_, by simp⟩
        simp [delay, hw, State.onBus, State.log, State.setLines, State.setAnswers, State.setWaits]
  rcases ha : s.answers with _ | ⟨a, as⟩
  · have hr : request e (s.setLines l) = .go (((s.setLines l).log e).setAnswers []) := by
      simp only [request, State.setLines_answers, ha]; rw [← ha]; rfl
    rcases hgo [] hr with h | h
    · exact .inl h
    · exact .inr (.inr (.inr h))
  · cases a
    · have hr : request e (s.setLines l) = .go (((s.setLines l).log e).setAnswers as) := by
        simp only [request, State.setLines_answers, ha]
      rcases hgo as hr with h | h
      · exact .inl h
      · exact .inr (.inr (.inr h))
    · refine .inr (.inl ⟨as, s.waits, ?_⟩)
      have hr : request e (s.setLines l) = raise .gpioFault ((((s.setLines l).log e).setAnswers as).setBusOk false) := by
        simp only [request, State.setLines_answers, ha]
      rw [cfgIdleProc, gpioConfigure]; exact congrArg (Run.andThen · _) hr
    · refine .inr (.inr (.inl ⟨as, s.waits, ?_, by simp⟩))
      have hr : request e (s.setLines l) = .stop (((s.setLines l).log e).setAnswers as) := by
        simp only [request, State.setLines_answers, ha]
      rw [cfgIdleProc, gpioConfigure]; exact congrArg (Run.andThen · _) hr

/-- R56: a delay, in every case. -/
theorem delay_ends (n : Nat) (s : State) :
    (∃ ws, delay n s = .go (s.onBus s.lines [.dly n] s.busOk s.shifter s.answers ws) ∧ ws <:+ s.waits) ∨
    (∃ ws, delay n s = .stop (s.onBus s.lines [.dly n] s.busOk s.shifter s.answers ws) ∧ Wait.never ∈ s.waits) := by
  rcases hw : s.waits with _ | ⟨w, ws⟩
  · refine .inl ⟨[], ?_, by simp⟩; simp only [delay, hw]; rw [← hw]; rfl
  · cases w
    · exact .inl ⟨ws, by simp only [delay, hw]; rfl, List.suffix_cons _ _⟩
    · exact .inr ⟨ws, by simp only [delay, hw]; rfl, by simp⟩

/-! ### The reset sequence (R137, R141, R146) -/

/-- The levels of a control-image write from `s`. -/
def ctrlLevels (s : State) : List Lines := wordsLevels s.cfg s.ad.cs s.cfg.adProfile s.lines [s.ad.ctrl]

theorem writeReg_ends (hb : s.busOk = true) : SendEnds s (ctrlLevels s) (writeReg s) :=
  transfer_ends [s.ad.ctrl] s.ad.cs s.cfg.adProfile hb

theorem writeReg_busOk_false (hb : s.busOk = false) : writeReg s = raise .gpioFault s :=
  transfer_busOk_false _ _ _ hb

/-- How a reset sequence from `s` can end: stopped in the first write, in the hold, in the second write, or done. -/
inductive ResetEnds (s : State) : Run → Prop
  | first (u) (h : SendEnds (putCtrl .reset true s) (ctrlLevels (putCtrl .reset true s)) (.stop u)) :
      ResetEnds s (.stop u)
  | hold (t ws) (h : SendEnds (putCtrl .reset true s) (ctrlLevels (putCtrl .reset true s)) (.go t))
      (hn : Wait.never ∈ t.waits) :
      ResetEnds s (.stop ((t.setAdRst true).onBus t.lines [.dly t.cfg.tResetUs] t.busOk t.shifter t.answers ws))
  | second (t t' ws u) (h : SendEnds (putCtrl .reset true s) (ctrlLevels (putCtrl .reset true s)) (.go t))
      (ht : t' = putCtrl .reset false
        ((t.setAdRst true).onBus t.lines [.dly t.cfg.tResetUs] t.busOk t.shifter t.answers ws)) (hw : ws <:+ t.waits)
      (h' : SendEnds t' (ctrlLevels t') (.stop u)) : ResetEnds s (.stop u)
  | done (t t' ws u) (h : SendEnds (putCtrl .reset true s) (ctrlLevels (putCtrl .reset true s)) (.go t))
      (ht : t' = putCtrl .reset false
        ((t.setAdRst true).onBus t.lines [.dly t.cfg.tResetUs] t.busOk t.shifter t.answers ws)) (hw : ws <:+ t.waits)
      (h' : SendEnds t' (ctrlLevels t') (.go u)) : ResetEnds s (.go (u.setAdRst false))

/-- Sending keeps `BUS_OK` as long as it goes on. -/
theorem SendEnds.busOk_go {ls : List Lines} {t : State} (h : SendEnds s ls (.go t)) : t.busOk = s.busOk := by
  cases h; rfl

theorem resetSeq_ends (hb : s.busOk = true) : ResetEnds s (resetSeq s) := by
  have h := writeReg_ends (s := putCtrl .reset true s) hb
  rw [resetSeq]
  cases hr : writeReg (putCtrl .reset true s) with
  | stop u => rw [hr] at h; exact .first u h
  | go t =>
    rw [hr] at h
    rw [Run.go_andThen]
    have hbt : t.busOk = true := h.busOk_go.trans hb
    rcases delay_ends t.cfg.tResetUs (t.setAdRst true) with ⟨ws, hd, hw⟩ | ⟨ws, hd, hn⟩
    · rw [hd, Run.go_andThen]
      have h2 := writeReg_ends (s := putCtrl .reset false
        ((t.setAdRst true).onBus t.lines [.dly t.cfg.tResetUs] t.busOk t.shifter t.answers ws)) hbt
      simp only [State.setAdRst_lines, State.setAdRst_busOk, State.setAdRst_shifter, State.setAdRst_answers]
      cases hr2 : writeReg (putCtrl .reset false
          ((t.setAdRst true).onBus t.lines [.dly t.cfg.tResetUs] t.busOk t.shifter t.answers ws)) with
      | stop u => rw [hr2] at h2; exact .second t _ ws u h rfl hw h2
      | go u => rw [hr2] at h2; exact .done t _ ws u h rfl hw h2
    · rw [hd, Run.stop_andThen]
      exact .hold t ws h hn

theorem resetSeq_busOk_false (hb : s.busOk = false) :
    resetSeq s = raise .gpioFault (putCtrl .reset true s) := by
  rw [resetSeq, writeReg_busOk_false (s := putCtrl .reset true s) hb]; rfl

/-! ### `BITCNT` stays within 0..16 (R36) -/

theorem stepLines_shifter (l : Lines) (s : State) : (stepLines l s).Holds fun _ t => t.shifter = s.shifter := by
  rcases stepLines_ends l s with ⟨as, ws, h, -⟩ | ⟨as, ws, h⟩ | ⟨as, ws, h, -⟩ | ⟨as, ws, h, -⟩ <;> rw [h] <;> rfl

theorem sendLevels_shifter : ∀ (ls : List Lines) (s : State),
    (sendLevels ls s).Holds fun _ t => t.shifter = s.shifter
  | [], _ => rfl
  | l :: ls, s => (stepLines_shifter l s).andThen
      (fun t ht => (sendLevels_shifter ls t).mono fun _ _ hu => hu.trans ht) fun _ ht => ht

theorem bitSlots_bitcnt (p : Profile) : ∀ (n : Nat) (s : State), s.shifter.bitcnt.toNat + n ≤ 16 →
    (bitSlots p n s).Holds fun _ t => t.shifter.bitcnt.toNat ≤ 16
  | 0, s, h => by simpa [bitSlots, Run.Holds] using h
  | n + 1, s, h => by
    rw [bitSlots, bitSlot_sends, Run.andThen_assoc]
    refine (sendLevels_shifter _ s).andThen (fun t _ => ?_) fun t ht => by rw [ht]; omega
    rw [Run.go_andThen]
    refine bitSlots_bitcnt p n _ ?_
    simp only [State.setShifter_shifter, Shifter.advance, BitVec.toNat_add]
    have : (1#5).toNat = 1 := rfl
    omega

theorem transferWord_bitcnt (c : Chan) (p : Profile) (k : Nat) (w : Word) (s : State) :
    (transferWord c p k w s).Holds fun _ t => t.shifter.bitcnt.toNat ≤ 16 := by
  rw [transferWord]
  refine (stepLines_shifter _ _).andThen (fun t ht => ?_) fun t ht => by rw [ht]; simp [Shifter.load]
  refine (bitSlots_bitcnt p 16 t (by rw [ht]; simp [Shifter.load])).andThen (fun t ht => ?_) fun _ ht => ht
  refine (stepLines_shifter _ _).andThen (fun u hu => ?_) fun u hu => by rw [hu]; exact ht
  exact (stepLines_shifter _ _).mono fun _ v hv => by rw [hv, hu]; exact ht

theorem transferWords_bitcnt (c : Chan) (p : Profile) : ∀ (ws : List Word) (k : Nat) (s : State),
    s.shifter.bitcnt.toNat ≤ 16 → (transferWords c p k ws s).Holds fun _ t => t.shifter.bitcnt.toNat ≤ 16
  | [], _, _, h => h
  | w :: ws, k, s, _ => (transferWord_bitcnt c p k w s).andThen
      (fun t ht => transferWords_bitcnt c p ws (k + 1) t ht) fun _ ht => ht

theorem transfer_bitcnt (ws : List Word) (c : Chan) (p : Profile) (s : State) (h : s.shifter.bitcnt.toNat ≤ 16) :
    (transfer ws c p s).Holds fun _ t => t.shifter.bitcnt.toNat ≤ 16 := by
  rw [transfer]
  cases hb : s.busOk
  · exact h
  · exact transferWords_bitcnt c p ws 0 s h

end Sys2Proof.Machine
end

