-- ==== Sys2Proof/Laws/Drivers.lean ====
section
/-! SUPPORT. The drivers' shared procedures with ready ports, and what their operand checks accept. -/

namespace Sys2Proof.Machine

variable {s : State}

theorem isFreqChannel_eq_true (ch : Int) : isFreqChannel ch = true ↔ ch = 0 ∨ ch = 1 := by
  simp only [isFreqChannel, Bool.or_eq_true, decide_eq_true_eq]

/-- R142: what AD.SETFREQ accepts. -/
theorem freqArgsOk_eq_true (cfg : Config) (ch : BitVec 8) (f : BitVec 48) :
    freqArgsOk cfg ch f = true ↔ (ch.toInt = 0 ∨ ch.toInt = 1) ∧ 0 ≤ freqOperand cfg f := by
  rw [freqArgsOk, Bool.and_eq_true, isFreqChannel_eq_true, decide_eq_true_eq]

/-- R75: at the full width, the operand is the signed field. -/
theorem freqOperand_full (cfg : Config) (h : cfg.freqW = 48) (f : BitVec 48) : freqOperand cfg f = f.toInt := by
  rw [freqOperand, h, BitVec.signExtend_eq]

/-- R142, R148: at the full width, a non-negative operand is its bits. -/
theorem freqOperand_toNat (cfg : Config) (hw : cfg.freqW = 48) (f : BitVec 48) (h : 0 ≤ f.toInt) :
    (freqOperand cfg f).toNat = f.toNat := by
  have h1 := BitVec.toInt_eq_toNat_cond f
  have h2 := f.isLt
  rw [freqOperand_full cfg hw]
  split at h1 <;> omega

/-- R136 with ready ports. -/
theorem writeReg_ready (hb : s.busOk = true) (h : s.portsReady 51 51) :
    writeReg s = .go (s.sent s.ad.cs s.cfg.adProfile [s.ad.ctrl]) :=
  transfer_ready (ws := [s.ad.ctrl]) _ _ (by simp) hb h

/-- After one word, the ports are ready for what they were ready for beyond it. -/
theorem sent_ready {c : Chan} {p : Profile} {w : Word} {n m : Nat} (h : s.portsReady (51 + n) (51 + m)) :
    (s.sent c p [w]).portsReady n m := by
  have := (portsReady_add.1 h).2
  refine (portsReady_congr ?_ ?_).1 this <;> simp [State.sent, State.played, wordsLevels_length]

/-- R137 with ready ports. -/
theorem resetSeq_ready (hb : s.busOk = true) (h : s.portsReady 102 103) : resetSeq s = .go s.resetDone := by
  have h1 : (putCtrl .reset true s).portsReady 51 51 := portsReady_mono h (by omega) (by omega)
  have h2 : ((putCtrl .reset true s).sent (putCtrl .reset true s).ad.cs (putCtrl .reset true s).cfg.adProfile
      [(putCtrl .reset true s).ad.ctrl]).portsReady 51 52 := sent_ready (s := putCtrl .reset true s) h
  rw [resetSeq, writeReg_ready (s := putCtrl .reset true s) hb h1, Run.go_andThen]
  generalize hu : (putCtrl .reset true s).sent (putCtrl .reset true s).ad.cs (putCtrl .reset true s).cfg.adProfile
      [(putCtrl .reset true s).ad.ctrl] = u at h2
  have hbu : u.busOk = true := by rw [← hu]; exact hb
  have h3 : (putCtrl .reset false (((u.setAdRst true).log (.dly u.cfg.tResetUs)).setWaits (u.waits.drop 1))).portsReady
      51 51 := ((portsReady_add (n := 0) (m := 1) (n' := 51) (m' := 51)).1 h2).2
  rw [delay_ready (s := u.setAdRst true) _ (portsReady_mono h2 (n' := 0) (m' := 1) (by omega) (by omega)),
    Run.go_andThen]
  have hb3 : (putCtrl .reset false (((u.setAdRst true).log (.dly u.cfg.tResetUs)).setWaits (u.waits.drop 1))).busOk =
      true := hbu
  simp only [State.setAdRst_waits]
  rw [writeReg_ready hb3 h3, Run.go_andThen, ← hu]
  rfl

end Sys2Proof.Machine
end

