-- ==== Sys2Proof/Laws/Frame.lean ====
section
/-! SUPPORT. What `FrameDecode` (R110) makes of the levels of a transfer (R104), where the line state carries each line
at its position. -/

namespace Sys2Proof.Machine

/-- R110: the states of a sequence of levels are those levels, packed. -/
theorem eventStates_levelsEvents (cfg : Config) : ∀ ls : List Lines,
    eventStates (levelsEvents cfg ls) = ls.map (pack cfg)
  | [] => rfl
  | l :: ls => by
    have h := eventStates_levelsEvents cfg ls
    simp only [levelsEvents, eventStates] at h
    simp [levelsEvents, eventStates, levelEvents, h]

/-- R22: what the laws of this file need of `Pack()`: the line state carries each line at its position. -/
structure Carries (cfg : Config) : Prop where
  cs : ∀ (c : Chan) (l : Lines), levelAt (csBit cfg c) (pack cfg l) = l.cs c
  sck : ∀ l : Lines, levelAt cfg.sckBit (pack cfg l) = l.sck
  sdo : ∀ l : Lines, levelAt cfg.sdoBit (pack cfg l) = l.sdo

section
variable {cfg : Config} {c : Chan} {p : Profile}

@[simp] theorem Lines.cs_sck (l : Lines) (b : Bool) (c : Chan) : ({ l with sck := b } : Lines).cs c = l.cs c := by
  cases c <;> rfl
@[simp] theorem Lines.cs_sdo (l : Lines) (b : Bool) (c : Chan) : ({ l with sdo := b } : Lines).cs c = l.cs c := by
  cases c <;> rfl
@[simp] theorem Lines.cs_sck_sdo (l : Lines) (a b : Bool) (c : Chan) :
    ({ l with sck := a, sdo := b } : Lines).cs c = l.cs c := by cases c <;> rfl
@[simp] theorem Lines.cs_setCs (l : Lines) (c : Chan) (b : Bool) : (l.setCs c b).cs c = b := by cases c <;> rfl
theorem Lines.cs_setCs_ne (l : Lines) {c c' : Chan} (b : Bool) (h : c' ≠ c) : (l.setCs c b).cs c' = l.cs c' := by
  cases c <;> cases c' <;> first | rfl | exact absurd rfl h
@[simp] theorem Lines.sck_setCs (l : Lines) (c : Chan) (b : Bool) : (l.setCs c b).sck = l.sck := by cases c <;> rfl
@[simp] theorem Lines.sdo_setCs (l : Lines) (c : Chan) (b : Bool) : (l.setCs c b).sdo = l.sdo := by cases c <;> rfl

/-- R110: one state read by the loop, in terms of the lines. -/
theorem frameLoop_cons (h : Carries cfg) (cpol cpha : Bool) (a b : Lines) (cur : Option (List Bool))
    (rest : List LineState) :
    frameLoop cfg c cpol cpha (pack cfg a) cur (pack cfg b :: rest) =
      if a.cs c && !b.cs c then frameLoop cfg c cpol cpha (pack cfg b) (some []) rest
      else if !a.cs c && b.cs c then cur.toList ++ frameLoop cfg c cpol cpha (pack cfg b) none rest
      else if !b.cs c && a.sck != b.sck && samplesOn cpol cpha a.sck then
        frameLoop cfg c cpol cpha (pack cfg b) (cur.map fun bits => bits ++ [a.sdo]) rest
      else frameLoop cfg c cpol cpha (pack cfg b) cur rest := by
  rw [frameLoop, h.cs, h.cs, h.sck, h.sck, h.sdo]

/-- R104, R110: a bit slot entered with the clock idle inside a frame adds its bit to the frame. -/
theorem frameLoop_slot (h : Carries cfg) (l : Lines) (b : Bool) (bits : List Bool) (rest : List LineState)
    (hc : l.cs c = false) (hs : l.sck = p.cpol) :
    frameLoop cfg c p.cpol p.cpha (pack cfg l) (some bits) ((slotLevels p l b).map (pack cfg) ++ rest) =
      frameLoop cfg c p.cpol p.cpha (pack cfg { l with sck := idleLevel p, sdo := b }) (some (bits ++ [b])) rest := by
  rcases hp : p with ⟨cpol, cpha, lsbf⟩
  subst hp
  cases cpha <;>
    simp [slotLevels, frameLoop_cons h, hc, hs, samplesOn, activeLevel, idleLevel]

/-- R104, R110: consecutive bit slots, entered with the clock idle inside a frame, add their bits to the frame. -/
theorem frameLoop_slots (h : Carries cfg) : ∀ (bs : List Bool) (b : Bool) (l : Lines) (bits : List Bool)
    (rest : List LineState), l.cs c = false → l.sck = p.cpol →
    frameLoop cfg c p.cpol p.cpha (pack cfg l) (some bits) ((slotsLevels p l (bs ++ [b])).map (pack cfg) ++ rest) =
      frameLoop cfg c p.cpol p.cpha (pack cfg { l with sck := idleLevel p, sdo := b }) (some (bits ++ (bs ++ [b]))) rest
  | [], b, l, bits, rest, hc, hs => by
    simpa [slotsLevels] using frameLoop_slot h l b bits rest hc hs
  | b' :: bs, b, l, bits, rest, hc, hs => by
    rw [List.cons_append, slotsLevels, List.map_append, List.append_assoc, frameLoop_slot h l b' bits _ hc hs,
      frameLoop_slots h bs b _ _ rest (by simpa using hc) rfl]
    simp

@[simp] theorem wordEnd_cs (l : Lines) : (wordEnd cfg c p l).cs c = true := by simp [wordEnd]

/-- R104, R110: one word, entered with no frame open, its chip-select high and the clock idle, is one frame. -/
theorem frameLoop_word (h : Carries cfg) (l : Lines) (w : Word) (rest : List LineState) (hc : l.cs c = true)
    (hs : l.sck = p.cpol) :
    frameLoop cfg c p.cpol p.cpha (pack cfg l) none ((wordLevels cfg c p l w).map (pack cfg) ++ rest) =
      wordBits w p.lsbf :: frameLoop cfg c p.cpol p.cpha (pack cfg (wordEnd cfg c p l)) none rest := by
  have hlast := wordBits_last w p.lsbf
  simp only [wordLevels, List.map_append, List.append_assoc, List.map_cons, List.map_nil, List.cons_append,
    List.nil_append]
  rw [frameLoop_cons h, if_pos (by simp [hc])]
  rw [hlast, frameLoop_slots h _ _ _ _ _ (by simp) (by simpa using hs)]
  rw [frameLoop_cons h, if_neg (by simp), if_pos (by simp)]
  simp only [Option.toList_some, List.nil_append, List.cons_append]
  rw [frameLoop_cons h, if_neg (by simp), if_neg (by simp), if_neg (by simp)]

/-- R107, R110: the words of a transfer, entered so, are its frames in order. -/
theorem frameLoop_words (h : Carries cfg) : ∀ (ws : List Word) (l : Lines) (rest : List LineState), l.cs c = true →
    l.sck = p.cpol →
    ∃ m : Lines, frameLoop cfg c p.cpol p.cpha (pack cfg l) none ((wordsLevels cfg c p l ws).map (pack cfg) ++ rest) =
      ws.map (wordBits · p.lsbf) ++ frameLoop cfg c p.cpol p.cpha (pack cfg m) none rest
  | [], l, rest, _, _ => ⟨l, rfl⟩
  | w :: ws, l, rest, hc, hs => by
    obtain ⟨m, hm⟩ := frameLoop_words h ws (wordEnd cfg c p l) rest (wordEnd_cs l) rfl
    refine ⟨m, ?_⟩
    rw [wordsLevels, List.map_append, List.append_assoc, frameLoop_word h l w _ hc hs, hm]
    rfl

/-- R110: levels that never lower a chip-select have no frame on it. -/
theorem frameLoop_deselected (h : Carries cfg) (cpol cpha : Bool) (c' : Chan) : ∀ (ls : List Lines) (l : Lines),
    l.cs c' = true → (∀ m ∈ ls, m.cs c' = true) →
    frameLoop cfg c' cpol cpha (pack cfg l) none (ls.map (pack cfg)) = []
  | [], _, _, _ => rfl
  | m :: ls, l, hl, hm => by
    have h1 := hm m (by simp)
    rw [List.map_cons, frameLoop_cons h, if_neg (by simp [h1]), if_neg (by simp [hl]), if_neg (by simp [h1])]
    exact frameLoop_deselected h cpol cpha c' ls m h1 fun m' h' => hm m' (by simp [h'])

/-- R103, R110: the sixteen bits of a word in the order of their slots denote it. -/
theorem frameWord_wordBits (w : Word) (lsbf : Bool) : frameWord lsbf (wordBits w lsbf) = some w := by
  have hl := wordBits_length w lsbf
  rw [frameWord, if_pos hl]
  congr 1
  cases lsbf
  · apply BitVec.eq_of_getLsbD_eq
    intro i hi
    simp only [Bool.false_eq_true, if_false, BitVec.getLsbD_setWidth, BitVec.getLsbD_ofBoolListBE, hl]
    have h1 : 15 - i < 16 := by omega
    have h2 : 15 - (15 - i) = i := by omega
    simp [wordBits, slotBit, hi, h1, h2]
  · apply BitVec.eq_of_getLsbD_eq
    intro i hi
    simp only [if_true, BitVec.getLsbD_setWidth, BitVec.getLsbD_ofBoolListLE]
    simp [wordBits, slotBit, hi]

end

end Sys2Proof.Machine
end

