-- ==== Sys2Proof/Laws/PerInstr.lean ====
section
/-! SUPPORT. The statements made per command: the family `OpcodeField` says that the encoding of a command carries in
its top byte the opcode R72 gives the command. -/

namespace Sys2Proof.Laws.OpcodeField

/-- R70, R72: `CMD[63:56]` of the encoding is the command's opcode. -/
def Statement (i : Instr) : Prop := opc (encode i) = i.opcode

theorem cfgIdle (p : Profile) : Statement (.cfgIdle p) := opc_append _ _ _
theorem xfer (c : Chan) (p : Profile) (ws : List Word) : Statement (.xfer c p ws) := opc_append _ _ _
theorem adAttach : Statement .adAttach := opc_append _ _ _
theorem adDetach : Statement .adDetach := opc_append _ _ _
theorem adSetCs (imm : BitVec 32) : Statement (.adSetCs imm) := opc_append _ _ _
theorem adBegin : Statement .adBegin := opc_append _ _ _
theorem adReset : Statement .adReset := opc_append _ _ _
theorem adSetFreq (ch : BitVec 8) (freq : BitVec 48) : Statement (.adSetFreq ch freq) := opc_append _ _ _
theorem adSetAct (ch : BitVec 8) : Statement (.adSetAct ch) := opc_append _ _ _
theorem adSetMode (m : Mode) : Statement (.adSetMode m) := opc_append _ _ _
theorem adShutdown : Statement .adShutdown := opc_append _ _ _
theorem mcpAttach : Statement .mcpAttach := opc_append _ _ _
theorem mcpDetach : Statement .mcpDetach := opc_append _ _ _
theorem mcpSetCs (imm : BitVec 32) : Statement (.mcpSetCs imm) := opc_append _ _ _
theorem mcpWrite (imm : BitVec 32) : Statement (.mcpWrite imm) := opc_append _ _ _

end Sys2Proof.Laws.OpcodeField
end

