-- ==== Sys2Proof/Tests/Slice0.lean ====
section
/-! SUPPORT. The model's own tests: well-formedness, decoding, at most two small tests per command on one step, and for
every statement with hypotheses a state and operands that meet them. Expected values are those of spec/95_test_vectors.md
(cited by vector) and of the rules' worked examples. -/

open Sys2Proof Sys2Proof.Machine

namespace Sys2Proof.Tests

/-! ### Helpers -/

/-- The state an outcome goes on in. -/
def after (o : Host.Outcome State Fault Refusal) : Option State :=
  match o with
  | .next t => some t
  | _ => none

/-- The status, image and `AD_RST` an outcome leaves. -/
def adOf (o : Host.Outcome State Fault Refusal) : Option (Status × Word × Bool) :=
  (after o).map fun t => (t.status, t.ad.ctrl, t.ad.rst)

/-- The status an outcome leaves and the events it adds to an empty trace. -/
def eventsOf (o : Host.Outcome State Fault Refusal) : Option (Status × List Event) :=
  (after o).map fun t => (t.status, t.trace)

/-- The states of the requests an outcome adds to an empty trace, as numbers. -/
def statesOf (o : Host.Outcome State Fault Refusal) : Option (List Nat) :=
  (after o).map fun t => (eventStates t.trace).map BitVec.toNat

/-- The words a chip on channel `c` receives, most significant bit first, from lines at `st` on. -/
def received (st : LineState) (c : Chan) (cpol cpha : Bool) (o : Host.Outcome State Fault Refusal) :
    Option (List (Option Word)) :=
  (after o).map fun t =>
    (frameDecode Config.default (st :: eventStates t.trace) c cpol cpha).map (frameWord false)

/-- Both drivers attached, a good bus with the clock at `sck`, image `ctrl`, the ports answering as listed. -/
def good (sck : Bool) (ctrl : Word) (as : List Answer) (ws : List Wait) : State :=
  { State.reset with
    lines := { cs0 := true, cs1 := true, cs2 := true, sck := sck, sdo := false }
    busOk := true
    ad := { att := true, rst := false, cs := .cs0, ctrl := ctrl }
    mcp := { att := true, cs := .cs1 }
    answers := as
    waits := ws }

/-- A good bus, `AD_CTRL = 0x2000`, every request answered. -/
def ready (sck : Bool) : State := good sck 0x2000#16 [] []

/-- A good bus whose adapter fails the request after `k` others. -/
def failing (k : Nat) : State := good true 0x2000#16 (List.replicate k .success ++ [.failure]) []

def mode0 : Profile := ⟨false, false, false⟩
def mode2 : Profile := ⟨true, false, false⟩

/-! ### Well-formed terms and configurations (R6, R27, R76, R133, R135) -/

theorem test_wf_xfer_without_words_refused : (Instr.xfer .cs0 mode0 []).wf = false := by decide
theorem test_wf_xfer_of_four_words_refused :
    (Instr.xfer .cs0 mode0 [0#16, 0#16, 0#16, 0#16]).wf = false := by decide
theorem test_wf_xfer_of_three_words : (Instr.xfer .cs0 mode0 [0#16, 0#16, 0#16]).wf = true := by decide
theorem test_wf_config_default : Config.default.wf = true := by decide
theorem test_wf_config_two_lines_on_one_bit_refused :
    ({ Config.default with sdoBit := 3 } : Config).wf = false := by decide
theorem test_wf_config_without_clock_refused : ({ Config.default with mclkHz := 0 } : Config).wf = false := by decide
theorem test_wf_config_field_in_address_bits_refused :
    ({ Config.default with ctrl := { CtrlLayout.default with b28 := 14 } } : Config).wf = false := by decide
theorem test_wf_config_two_fields_on_one_bit_refused :
    ({ Config.default with ctrl := { CtrlLayout.default with hlb := 13 } } : Config).wf = false := by decide
theorem test_wf_config_mask_not_the_union_refused :
    ({ Config.default with modes := { ModePatterns.default with mask := 0x00EB#16 } } : Config).wf = false := by decide
theorem test_wf_config_pattern_outside_mode_fields_refused :
    ({ Config.default with
      modes := { ModePatterns.default with off := 0x01C0#16, mask := 0x01EA#16 } } : Config).wf = false := by decide
theorem test_wf_config_equal_tags_refused : ({ Config.default with freqTag1 := 0x4000#16 } : Config).wf = false := by
  decide
theorem test_wf_config_phase_tag_refused : ({ Config.default with freqTag1 := 0xC000#16 } : Config).wf = false := by
  decide
theorem test_wf_config_ad9833_idle_low_refused :
    ({ Config.default with adProfile := mode0 } : Config).wf = false := by decide
theorem test_wf_config_mcp41010_idle_high_refused :
    ({ Config.default with mcpProfile := mode2 } : Config).wf = false := by decide

theorem test_wf_config_operand_wider_than_its_field_refused :
    ({ Config.default with freqW := 49 } : Config).wf = false ∧ ({ Config.default with freqW := 0 } : Config).wf = false := by
  decide
theorem test_wf_config_four_words_refused :
    ({ Config.default with xferMax := 4 } : Config).wf = false ∧ ({ Config.default with xferMax := 0 } : Config).wf = false := by
  decide
theorem test_legal_xfer_beyond_xfer_max_refused :
    (Instr.xfer .cs0 mode0 [0#16, 0#16]).legalIn { Config.default with xferMax := 1 } = false := by decide

/-! ### Decoding: words written out from R70 to R76 (R82, V-N) -/

theorem test_decode_cfgIdle : decode 0x0106000000000000#64 = .ok (.cfgIdle ⟨false, true, true⟩) := by decide
theorem test_decode_xfer :
    decode 0x025300007FFE8001#64 = .ok (.xfer .cs2 ⟨true, true, false⟩ [0x8001#16, 0x7FFE#16]) := by decide
theorem test_decode_xfer_ignores_unused_words :
    decode 0x0228FFFFFFFF11FF#64 = .ok (.xfer .cs1 mode0 [0x11FF#16]) := by decide
theorem test_decode_adAttach : decode 0x1000000000000000#64 = .ok .adAttach := by decide
theorem test_decode_adDetach : decode 0x1100000000000000#64 = .ok .adDetach := by decide
theorem test_decode_adSetCs : decode 0x12000000FFFFFFFF#64 = .ok (.adSetCs (-1#32)) := by decide
theorem test_decode_adBegin : decode 0x1300000000000000#64 = .ok .adBegin := by decide
theorem test_decode_adReset : decode 0x1400000000000000#64 = .ok .adReset := by decide
theorem test_decode_adSetFreq :
    decode 0x1501000001B80000#64 = .ok (.adSetFreq 1#8 (28835840#48)) := by decide
theorem test_decode_adSetAct : decode 0x1602000000000000#64 = .ok (.adSetAct 2#8) := by decide
theorem test_decode_adSetMode : decode 0x1704000000000000#64 = .ok (.adSetMode .off) := by decide
theorem test_decode_adShutdown : decode 0x1800000000000000#64 = .ok .adShutdown := by decide
theorem test_decode_mcpAttach : decode 0x2000000000000000#64 = .ok .mcpAttach := by decide
theorem test_decode_mcpDetach : decode 0x2100000000000000#64 = .ok .mcpDetach := by decide
theorem test_decode_mcpSetCs : decode 0x2200000000000007#64 = .ok (.mcpSetCs 7#32) := by decide
theorem test_decode_mcpWrite : decode 0x230000000000012C#64 = .ok (.mcpWrite 300#32) := by decide

/-- V-N10, V-N11, V-N12, V-N13, V-N14, V-N16, V-N17. -/
theorem test_decode_illegal_words :
    decode 0x0000000000000000#64 = .error .unassignedOpcode ∧
    decode 0x1300000000000001#64 = .error .mustBeZero ∧
    decode 0x0238000000001234#64 = .error .channelThree ∧
    decode 0x0200000000001234#64 = .error .countZero ∧
    decode 0x1705000000000000#64 = .error .modeReserved ∧
    decode 0x02A80000000011FF#64 = .error .mustBeZero ∧
    decode 0x2301000000000005#64 = .error .mustBeZero := by decide

theorem test_decodeTableWord_reads_the_low_bits :
    decodeTableWord 64 0x2200000000000002 = some (.mcpSetCs 2#32) ∧
    decodeTableWord 64 0x10000000000000000 = none := by decide

/-! ### Text (R80, R81) -/

theorem test_assemble_comment_and_fraction :
    assembleLine "AD.SETFREQ 0, 1000.5 ; V-F8".toList = .command (.adSetFreq 0#8 (0x3E88000#48)) := by decide
theorem test_assemble_mode_name : assembleLine "CFGIDLE MODE2, LSB".toList = .command (.cfgIdle ⟨true, false, true⟩) := by
  decide
theorem test_assemble_channel_three_malformed :
    assembleLine "XFER 3, 0, 0, MSB, 0x1234".toList = .malformed := by decide
theorem test_assemble_program :
    assembleProgram ["MCP.ATTACH".toList, "  ; P2".toList, "MCP.WRITE 300".toList] =
      some [0x2000000000000000#64, 0x230000000000012C#64] := by decide

/-! ### One step of each command (95_test_vectors.md part 2) -/

/-- V-E1. -/
theorem test_cfgIdle : eventsOf (exec (.cfgIdle ⟨true, true, true⟩) State.reset) =
    some (.ok, [.cfg 0x2F#8 0x2F#8 0x0F#8, .dly 1000]) := by decide

/-- V-E1, with the adapter failing the request. -/
theorem test_cfgIdle_rejected :
    eventsOf (exec (.cfgIdle mode2) { State.reset with answers := [.failure] }) =
      some (.gpioFault, [.cfg 0x2F#8 0x2F#8 0x0F#8]) := by decide

set_option maxRecDepth 100000 in
/-- V-E4: phase 1, least significant bit first; state 35 as R104 gives it, where the vector has 0x0B (log 19). -/
theorem test_xfer_phase_one_lsb_first :
    statesOf (exec (.xfer .cs2 ⟨false, true, true⟩ [0xA5C3#16]) (ready false)) = some
      ([0x03, 0x0B, 0x2B, 0x23, 0x2B, 0x2B, 0x23, 0x2B, 0x0B, 0x03, 0x0B, 0x0B, 0x03, 0x0B, 0x0B, 0x03, 0x0B] ++
        [0x0B, 0x03, 0x0B, 0x2B, 0x23, 0x2B, 0x2B, 0x23, 0x2B, 0x2B, 0x23, 0x2B, 0x0B, 0x03, 0x0B, 0x2B, 0x23] ++
        [0x2B, 0x0B, 0x03, 0x0B, 0x0B, 0x03, 0x0B, 0x2B, 0x23, 0x2B, 0x0B, 0x03, 0x0B, 0x2B, 0x23, 0x27, 0x07]) := by
  decide

/-- V-E8: the adapter fails the fifth request. -/
theorem test_xfer_failure :
    eventsOf (exec (.xfer .cs1 mode0 [0x11FF#16, 0x1100#16])
      { ready false with answers := [.success, .success, .success, .success, .failure] }) =
    some (.gpioFault, [.drv 0x2F#8 0x05#8, .dly 2, .drv 0x2F#8 0x05#8, .dly 2, .drv 0x2F#8 0x0D#8, .dly 2,
      .drv 0x2F#8 0x05#8, .dly 2, .drv 0x2F#8 0x05#8]) := by decide

/-- V-A9, with the adapter failing. -/
theorem test_adAttach_rejected :
    (after (exec .adAttach { State.reset with answers := [.failure] })).map
      (fun t => (t.status, t.ad.att, t.busOk, t.trace)) =
    some (.gpioFault, false, false, [.cfg 0x2F#8 0x2F#8 0x0F#8]) := by decide

/-- V-A9: attach while attached keeps the image. -/
theorem test_adAttach_again : adOf (exec .adAttach (good true 0x2802#16 [] [])) = some (.ok, 0x2802#16, false) := by decide

/-- V-A10. -/
theorem test_adDetach :
    (after (exec .adDetach { ready true with ad := { att := true, rst := true, cs := .cs2, ctrl := 0x28C0#16 } })).map
      (fun t => (t.status, t.ad, t.busOk, t.trace)) =
    some (.ok, { att := false, rst := false, cs := .cs2, ctrl := 0x0000#16 }, true, []) := by decide

/-- V-A8. -/
theorem test_adSetCs :
    [2#32, 0#32, 1#32, 3#32, -1#32, 2147483647#32, 2147483648#32].map
      (fun imm => (after (exec (.adSetCs imm) State.reset)).map fun t => t.ad.cs) =
    [some .cs2, some .cs0, some .cs1, some .cs0, some .cs0, some .cs0, some .cs0] := by decide

set_option maxRecDepth 100000 in
/-- V-A1, from `AD_CTRL = 0x0802`. -/
theorem test_adBegin :
    received 0x0F#8 .cs0 true false (exec .adBegin (good true 0x0802#16 [] [])) =
      some [some 0x2802#16, some 0x2902#16, some 0x2802#16] := by decide

/-- P4b: the write that clears the reset bit fails. -/
theorem test_adReset_second_write_fails : adOf (exec .adReset (failing 51)) = some (.gpioFault, 0x2000#16, true) := by
  set_option maxRecDepth 100000 in decide

/-- V-A3, on channel 1 at half the master clock. -/
theorem test_adSetFreq : freqWords 1#8 (0xBEBC200000#48) (ready true) = [0x2000#16, 0x8000#16, 0xA000#16] := by decide

/-- V-A4: a negative operand, and a channel outside {0,1} with the driver unattached. -/
theorem test_adSetFreq_invalid :
    eventsOf (exec (.adSetFreq 0#8 (0xFFFFFFFFFFFF#48)) (ready true)) = some (.invalidArgument, []) ∧
    eventsOf (exec (.adSetFreq 2#8 (-65536#48)) State.reset) = some (.invalidArgument, []) := by decide

set_option maxRecDepth 100000 in
/-- V-A5. -/
theorem test_adSetAct :
    adOf (exec (.adSetAct 1#8) (good true 0x20C0#16 [] [])) = some (.ok, 0x28C0#16, false) ∧
    received 0x0F#8 .cs0 true false (exec (.adSetAct 1#8) (ready true)) = some [some 0x2800#16] := by decide

/-- V-A6, V-A11: with `BUS_OK = 0` the image is updated and nothing is sent. -/
theorem test_adSetMode_bad_bus :
    let s : State := { good true 0x2100#16 [] [] with busOk := false }
    adOf (exec (.adSetMode .triangle) s) = some (.gpioFault, 0x2102#16, false) ∧
    eventsOf (exec (.adSetMode .triangle) s) = some (.gpioFault, []) := by decide

set_option maxRecDepth 100000 in
/-- V-A6. -/
theorem test_adSetMode :
    adOf (exec (.adSetMode .squareFull) (good true 0x28C0#16 [] [])) = some (.ok, 0x2828#16, false) := by decide

set_option maxRecDepth 100000 in
/-- V-A7. -/
theorem test_adShutdown : adOf (exec .adShutdown (good true 0x2002#16 [] [])) = some (.ok, 0x20C0#16, false) := by decide

/-- V-M13. -/
theorem test_mcpAttach :
    (after (exec .mcpAttach State.reset)).map (fun t => (t.status, t.mcp.att, t.busOk, t.lines.sck, t.trace)) =
    some (.ok, true, true, false, [.cfg 0x2F#8 0x2F#8 0x07#8, .dly 1000]) := by decide

/-- V-M14. -/
theorem test_mcpDetach :
    (after (exec .mcpDetach (ready true))).map (fun t => (t.status, t.mcp, t.trace)) =
      some (.ok, { att := false, cs := .cs1 }, []) := by decide

/-- V-M12. -/
theorem test_mcpSetCs_out_of_range :
    (after (exec (.mcpSetCs 7#32) (ready true))).map (fun t => (t.status, t.mcp.cs)) = some (.ok, .cs0) := by decide

set_option maxRecDepth 100000 in
/-- V-M5, V-E2: the 51 states. -/
theorem test_mcpWrite : statesOf (exec (.mcpWrite 300#32) (ready false)) = some
    ([0x05, 0x05, 0x0D, 0x05, 0x05, 0x0D, 0x05, 0x05, 0x0D, 0x05, 0x25, 0x2D, 0x25, 0x05, 0x0D, 0x05, 0x05] ++
      [0x0D, 0x05, 0x05, 0x0D, 0x05, 0x25, 0x2D, 0x25, 0x25, 0x2D, 0x25, 0x25, 0x2D, 0x25, 0x25, 0x2D, 0x25] ++
      [0x25, 0x2D, 0x25, 0x25, 0x2D, 0x25, 0x25, 0x2D, 0x25, 0x25, 0x2D, 0x25, 0x25, 0x2D, 0x25, 0x27, 0x07]) := by
  decide

/-- V-M7, V-M8, R177. -/
theorem test_mcpWord_extremes :
    [0, 128, 255, 256, 300, -5, -2147483648, 2147483647].map (mcpWord Config.default) =
    [0x1100#16, 0x1180#16, 0x11FF#16, 0x11FF#16, 0x11FF#16, 0x1100#16, 0x1100#16, 0x11FF#16] := by decide

/-- V-F1 to V-F8: the register value. -/
theorem test_freqReg_low :
    [0, 0xBEB, 0xBEC, 0x8000, 0x10000, 0x1B80000, 0x3E80000, 0x3E88000].map (freqReg Config.default) =
    [0, 0, 1, 5, 11, 4724, 10737, 10743] := by decide

/-- V-F9 to V-F13: the words of channel 0 (low, high). -/
theorem test_freqWords_high :
    [0xBEBC1F8000, 0xBEBC200000, 0x17D783F0000, 0x17D78400000, 0x2FAF0800000].map
      (fun f => ((freqLoWord Config.default 0 f).toNat, (freqHiWord Config.default 0 f).toNat)) =
    [(0x7FFB, 0x5FFF), (0x4000, 0x6000), (0x7FF5, 0x7FFF), (0x4000, 0x4000), (0x4000, 0x4000)] := by decide

/-- V-X5: an illegal word, decoded before any other check. -/
theorem test_step_illegal_word :
    (after (step (State.reset.withFetchWord 64 0x1705000000000000))).map (fun t => (t.status, t.replies, t.trace)) =
    some (.illegalCommand, [.illegalCommand], []) := by decide

/-- The first step after reset runs the word placed by the host. -/
theorem test_step_after_reset :
    (after (step (State.reset.withFetchWord 64 0x1200000000000002))).map (fun t => (t.status, t.ad.cs)) =
    some (.ok, .cs2) := by decide

/-! ### Every statement's hypotheses can be met -/

theorem inv_good (sck : Bool) (as : List Answer) (ws : List Wait) : Inv (good sck 0x2000#16 as ws) where
  cfg_wf := (by decide : Config.default.wf = true)
  one_low := rfl
  lines_idle := fun _ _ => ⟨rfl, rfl⟩
  unattached := fun h => by cases h
  ctrl_legal := ⟨(by decide : 0x2000#16 &&& ~~~ctrlWritable Config.default = 0#16), .sine,
    (by decide : 0x2000#16 &&& Config.default.modes.mask = modeBits Config.default.modes .sine)⟩
  bitcnt_le := (by decide : (0#5).toNat ≤ 16)
  trace_one_low := by intro st h; cases h

theorem ports_good (sck : Bool) (ctrl : Word) (n m : Nat) : (good sck ctrl [] []).portsReady n m := by
  constructor <;> intro a h <;> simp [good] at h

theorem ports_failing (k n m : Nat) (h : n ≤ k) : (failing k).portsReady n m := by
  constructor
  · intro a ha
    have : a ∈ List.replicate n Answer.success := by
      simpa [failing, good, List.take_append, Nat.min_eq_left h, Nat.sub_eq_zero_of_le h] using ha
    exact List.eq_of_mem_replicate this
  · intro a ha
    simp [failing, good] at ha

theorem fails_failing (k : Nat) : (failing k).failsAt k := by
  refine ⟨?_, ports_failing k k (k + 1) (Nat.le_refl k)⟩
  simp [failing, good]

theorem witness_DecodeOfEncode : (Instr.xfer .cs2 ⟨true, true, true⟩ [0#16, 1#16, 2#16]).wf = true ∧
    (Instr.adSetMode .off).wf = true := by decide

theorem witness_EncodeOfDecode : decode 0x0228FFFFFFFF11FF#64 = .ok (.xfer .cs1 mode0 [0x11FF#16]) := by decide

theorem witness_FrequencyLiteralIsNearest : 0 < (⟨-3, 131072⟩ : HzLiteral).den ∧
    hzFixed ⟨-3, 131072⟩ = -1 := by decide

theorem witness_StepRunsDecoded :
    (ready true).busy = false ∧ ((ready true).setCmds [0x1300000000000000#64]).cmds = 0x1300000000000000#64 :: [] ∧
    decode 0x1300000000000000#64 = .ok .adBegin ∧
    decodeTableWord 64 0x1300000000000000 = some .adBegin := by decide

theorem witness_IllegalWordRaises :
    State.reset.busy = false ∧ (State.reset.setCmds [0#64, 0#64]).cmds = 0#64 :: [0#64] ∧
    decode 0#64 = .error .unassignedOpcode := by decide

theorem witness_BusyOrIdleBlockKeepsState :
    ((State.reset.setCmds [0#64]).accept.busy = true ∧ (State.reset.setCmds [0#64]).accept.cmds ≠ []) ∧
    State.reset.cmds = [] := by decide

theorem witness_AdSetCsResult :
    (BitVec.toInt 0#32 = Chan.cs0.toBits.toNat ∧ BitVec.toInt 2#32 = Chan.cs2.toBits.toNat) ∧
    (¬(0 ≤ BitVec.toInt 3#32 ∧ BitVec.toInt 3#32 ≤ 2) ∧ ¬(0 ≤ BitVec.toInt (-1#32) ∧ BitVec.toInt (-1#32) ≤ 2)) := by
  decide

theorem witness_McpSetCsResult :
    (BitVec.toInt 0#32 = Chan.cs0.toBits.toNat ∧ BitVec.toInt 2#32 = Chan.cs2.toBits.toNat) ∧
    (¬(0 ≤ BitVec.toInt 3#32 ∧ BitVec.toInt 3#32 ≤ 2) ∧ ¬(0 ≤ BitVec.toInt (-1#32) ∧ BitVec.toInt (-1#32) ≤ 2)) := by
  decide

theorem witness_CfgIdleResult :
    profileAllowed (ready true).cfg ⟨true, true, true⟩ = true ∧ (ready true).portsReady 1 1 ∧
    (failing 0).answers.head? = some .failure :=
  ⟨by decide, ports_good _ _ _ _, by decide⟩

theorem witness_XferResult :
    (Instr.xfer .cs0 mode2 [1#16, 2#16, 3#16]).legalIn (ready true).cfg = true ∧ profileAllowed (ready true).cfg mode2 = true ∧
    (ready true).busOk = true ∧ (ready true).portsReady (51 * 3) (51 * 3) :=
  ⟨by decide, by decide, by decide, ports_good _ _ _ _⟩

set_option maxRecDepth 10000 in
theorem witness_XferFailure :
    (Instr.xfer .cs0 mode2 [1#16, 2#16]).legalIn (failing 0).cfg = true ∧
    profileAllowed (failing 0).cfg mode2 = true ∧ (failing 0).busOk = true ∧ (failing 0).failsAt 0 ∧
    (failing 50).failsAt 50 ∧ (failing 51).failsAt 51 ∧ (failing 101).failsAt 101 ∧
    let ls := wordsLevels (failing 0).cfg .cs0 mode2 (failing 0).lines
      ([1#16, 2#16].map (sentWord (failing 0).cfg mode2))
    ls[0]? = some { cs0 := false, cs1 := true, cs2 := true, sck := true, sdo := false } ∧
    ls[50]? = some { cs0 := true, cs1 := true, cs2 := true, sck := true, sdo := false } ∧
    ls[51]? = some { cs0 := false, cs1 := true, cs2 := true, sck := true, sdo := false } ∧
    ls[101]? = some { cs0 := true, cs1 := true, cs2 := true, sck := true, sdo := false } :=
  ⟨by decide, by decide, by decide, fails_failing 0, fails_failing 50, fails_failing 51, fails_failing 101, by decide,
    by decide, by decide, by decide⟩

theorem witness_PackBits : Config.default.linesDistinct = true ∧
    (4 : Fin 8) ∉ [Config.default.cs0Bit, Config.default.cs1Bit, Config.default.cs2Bit, Config.default.sckBit,
      Config.default.sdoBit] := by decide

theorem witness_ShifterPresentsSlots : (0 < 16 ∧ slotBit 0x8000#16 0 false = true) ∧
    (15 < 16 ∧ slotBit 0x8000#16 15 true = true) := by decide

set_option maxRecDepth 10000 in
theorem witness_OneLineMovesAtATime :
    let ls := (ready false).lines :: wordsLevels Config.default .cs1 mode2 (ready false).lines [1#16]
    (ls[0]?).isSome = true ∧ (ls[1]?).isSome = true ∧ (ls[50]?).isSome = true ∧ (ls[51]?).isSome = true := by decide

theorem witness_XferDeliversWords :
    Inv (ready true) ∧ (ready true).busy = false ∧
    (Instr.xfer .cs2 ⟨true, true, true⟩ [1#16, 2#16, 3#16]).legalIn (ready true).cfg = true ∧
    profileAllowed (ready true).cfg ⟨true, true, true⟩ = true ∧ (ready true).busOk = true ∧
    (ready true).portsReady (51 * 3) (51 * 3) ∧ (ready true).lines.sck = true ∧ Chan.cs0 ≠ .cs2 :=
  ⟨inv_good _ _ _, rfl, by decide, by decide, rfl, ports_good _ _ _ _, rfl, by decide⟩

set_option maxRecDepth 10000 in
/-- The last sampling edge of the word among the levels. -/
theorem witness_TransferKeepsTheBus :
    (ready false).lines.noneLow = true ∧ (ready false).lines.sck = mode0.cpol ∧ [0x1180#16] ≠ [] ∧
    Chan.cs0 ≠ .cs1 ∧
    let ls := (ready false).lines :: wordsLevels Config.default .cs1 mode0 (ready false).lines [0x1180#16]
    ((ls[47]?).map Lines.sck = some false ∧ (ls[48]?).map Lines.sck = some true ∧ (ls[49]?).isSome = true) ∧
    samplesOn mode0.cpol mode0.cpha false = true := by decide

theorem witness_WrongClockLevelMissesFirstBit :
    Config.default.wf = true ∧ (ready false).lines.noneLow = true ∧ (ready false).lines.sck ≠ mode2.cpol ∧
    (ready false).lines.sck ≠ (⟨true, true, false⟩ : Profile).cpol := by decide

theorem witness_SwitchedOffProfilesRefused :
    (({ Config.default with allowCpha1 := false } : Config).allowCpha1 = false ∧
      (⟨true, true, false⟩ : Profile).cpha = true ∧ (Instr.xfer .cs0 ⟨true, true, false⟩ [1#16]).legalIn
        { Config.default with allowCpha1 := false } = true) ∧
    (State.reset.cfg.allowCpha1 = true ∧ mode0.cpha = false ∧
      (Instr.xfer .cs0 mode0 [1#16]).legalIn State.reset.cfg = true) := by decide

/-- U2, R106: with `ALLOW_LSBF` off, CFGIDLE with `LSBF = 1` runs as with `LSBF = 0`. -/
theorem test_cfgidle_lsbf_off :
    exec (.cfgIdle ⟨true, false, true⟩) (State.resetWith { Config.default with allowLsbf := false }) =
      .next (((State.resetWith { Config.default with allowLsbf := false }).idled mode2).close .ok) := by rfl

/-- U2: with `ALLOW_LSBF` off, an XFER with `LSBF = 1` sends a free word, else its own; with the switch on, its own. -/
theorem test_sent_word :
    sentWord { Config.default with allowLsbf := false } ⟨true, false, true⟩ 0xA5C3#16 = Config.freeOrder 0xA5C3#16 ∧
    sentWord { Config.default with allowLsbf := false } mode2 0xA5C3#16 = 0xA5C3#16 ∧
    sentWord Config.default ⟨true, false, true⟩ 0xA5C3#16 = 0xA5C3#16 := ⟨rfl, rfl, rfl⟩

theorem witness_XferCountIsBounded :
    (([] : List Word) = [] ∧ exec (.xfer .cs0 mode2 []) (ready true) = .next ((ready true).close .illegalCommand)) ∧
    (3 < [0#16, 0#16, 0#16, 0#16].length ∧
      ({ Config.default with xferMax := 1 } : Config).xferMax < [0#16, 0#16].length) ∧
    (3 ≤ Config.default.xferMax ∧
      decode 0x0261400069F12000#64 = .ok (.xfer .cs0 mode2 [0x2000#16, 0x69F1#16, 0x4000#16])) :=
  ⟨⟨rfl, rfl⟩, by decide, by decide⟩

/-- The full width, and a width of 32 whose operand is negative though its field is not. -/
theorem witness_FreqOperandIsSigned :
    (Config.default.freqW = 48 ∧ 1 ≤ Config.default.freqW ∧ Config.default.freqW ≤ 48) ∧
    freqOperand { Config.default with freqW := 32 } 0x0000FFFFFFFF#48 = -1 := by decide

theorem witness_FreqRegIsRounded : 0 < Config.default.mclkHz ∧ Config.default.tieUp = true := by decide

/-- The top of the range `[0, MCLK_HZ/2]`. -/
theorem witness_FrequencyAccuracy : 0 < Config.default.mclkHz ∧
    ((0xBEBC200000 : Nat) : ℚ) / 2 ^ Config.default.freqF ≤ (Config.default.mclkHz : ℚ) / 2 :=
  ⟨by decide, by norm_num [Config.default]⟩

theorem witness_FreqWordsCarryRegister : Config.default.wf = true ∧
    freqReg Config.default 0x17D783F0000 < 2 ^ 28 := by decide

theorem witness_AttachResult : (ready true).portsReady 1 1 ∧ (failing 0).answers.head? = some .failure :=
  ⟨ports_good _ _ _ _, by decide⟩

theorem witness_BeginResult : (ready true).ad.att = true ∧ (ready true).busOk = true ∧
    (ready true).portsReady 153 154 ∧ (ready true).cfg.wf = true ∧ CtrlField.fselect ≠ .b28 ∧
    CtrlField.fselect ≠ .reset :=
  ⟨rfl, rfl, ports_good _ _ _ _, by decide, by decide, by decide⟩

theorem witness_ResetResult : (ready true).ad.att = true ∧ (ready true).busOk = true ∧
    (ready true).portsReady 102 103 ∧
    ∀ k, k < 102 → (failing k).ad.att = true ∧ (failing k).busOk = true ∧ (failing k).failsAt k :=
  ⟨rfl, rfl, ports_good _ _ _ _, fun k _ => ⟨rfl, rfl, fails_failing k⟩⟩

theorem witness_SetFreqResult : 0 < (ready true).cfg.mclkHz ∧
    (BitVec.toInt 0#8 = 0 ∧ BitVec.toInt 1#8 = 1) ∧ (0 ≤ freqOperand (ready true).cfg 0#48 ∧
      0 ≤ freqOperand (ready true).cfg 0x7FFFFFFFFFFF#48) ∧
    (ready true).ad.att = true ∧ (ready true).busOk = true ∧ (ready true).portsReady 153 153 :=
  ⟨by decide, by decide, by decide, rfl, rfl, ports_good _ _ _ _⟩

theorem witness_SetFreqWithoutClockStops :
    let s : State := { ready true with cfg := { Config.default with mclkHz := 0 } }
    s.cfg.mclkHz = 0 ∧ BitVec.toInt 1#8 = 1 ∧ 0 ≤ freqOperand s.cfg 0#48 ∧ s.ad.att = true ∧ s.busOk = true := by decide

theorem witness_SetActResult :
    (BitVec.toInt 0#8 = (if false then 1 else 0) ∧ BitVec.toInt 1#8 = (if true then 1 else 0)) ∧
    (ready true).ad.att = true ∧ (ready true).busOk = true ∧ (ready true).portsReady 51 51 ∧
    (ready true).cfg.wf = true ∧ CtrlField.b28 ≠ .fselect :=
  ⟨by decide, rfl, rfl, ports_good _ _ _ _, by decide, by decide⟩

theorem witness_SetModeResult : (ready true).ad.att = true ∧ (ready true).busOk = true ∧
    (ready true).portsReady 51 51 := ⟨rfl, rfl, ports_good _ _ _ _⟩

theorem witness_ModesExcludeEachOther : (ready true).cfg.wf = true ∧ (ready true).ad.att = true ∧
    ∃ t u, exec (.adSetMode .squareFull) (ready true) = .next t ∧ exec (.adSetMode .squareHalf) t = .next u :=
  ⟨by decide, rfl, _, _, rfl, rfl⟩

set_option maxRecDepth 100000 in
/-- AD.RESET from Idle, cut short at its first and at its second write, and AD.ATTACH rejected. -/
theorem witness_AdStateMachine :
    (∃ t es, Inv (failing 50) ∧ adState (failing 50) = .idle ∧ exec .adReset (failing 50) = .next t ∧ t.busy = false ∧
      t.trace = (failing 50).trace ++ es ∧ t.status = .gpioFault ∧ countDrv es = 51) ∧
    (∃ t es, Inv (failing 51) ∧ adState (failing 51) = .idle ∧ exec .adReset (failing 51) = .next t ∧ t.busy = false ∧
      t.trace = (failing 51).trace ++ es ∧ t.status = .gpioFault ∧ countDrv es = 52) ∧
    ∃ t es, Inv (failing 0) ∧ exec .adAttach (failing 0) = .next t ∧ t.busy = false ∧
      t.trace = (failing 0).trace ++ es ∧ t.status = .gpioFault :=
  ⟨⟨_, _, inv_good _ _ _, by decide, rfl, by decide, rfl, by decide, by decide⟩,
    ⟨_, _, inv_good _ _ _, by decide, rfl, by decide, rfl, by decide, by decide⟩,
    ⟨_, _, inv_good _ _ _, rfl, by decide, rfl, by decide⟩⟩

set_option maxRecDepth 100000 in
/-- AD.BEGIN from Idle, cut short at the end of its first reset write and at the start of its second. -/
theorem witness_AdStateMachine_begin :
    (∃ t es, Inv (failing 101) ∧ adState (failing 101) = .idle ∧ exec .adBegin (failing 101) = .next t ∧
      t.busy = false ∧ t.trace = (failing 101).trace ++ es ∧ t.status = .gpioFault ∧ countDrv es = 102) ∧
    ∃ t es, Inv (failing 102) ∧ adState (failing 102) = .idle ∧ exec .adBegin (failing 102) = .next t ∧
      t.busy = false ∧ t.trace = (failing 102).trace ++ es ∧ t.status = .gpioFault ∧ countDrv es = 103 :=
  ⟨⟨_, _, inv_good _ _ _, by decide, rfl, by decide, rfl, by decide, by decide⟩,
    ⟨_, _, inv_good _ _ _, by decide, rfl, by decide, rfl, by decide, by decide⟩⟩

/-- A bad bus after a reset sequence that was cut short: Resetting. -/
def resetting : State :=
  { failing 0 with busOk := false, ad := { att := true, rst := true, cs := .cs0, ctrl := 0x2000#16 } }

theorem inv_resetting : Inv resetting :=
  have h := inv_good true [Answer.failure] []
  { cfg_wf := h.cfg_wf
    one_low := h.one_low
    lines_idle := fun _ hb => by cases hb
    unattached := fun ha => by cases ha
    ctrl_legal := h.ctrl_legal
    bitcnt_le := h.bitcnt_le
    trace_one_low := h.trace_one_low }

/-- A good bus with the AD9833 driver unattached. -/
def unattached : State :=
  { ready true with ad := { att := false, rst := false, cs := .cs0, ctrl := 0x0000#16 } }

theorem inv_unattached : Inv unattached :=
  have h := inv_good true [] []
  { cfg_wf := h.cfg_wf
    one_low := h.one_low
    lines_idle := h.lines_idle
    unattached := fun _ => ⟨rfl, rfl⟩
    ctrl_legal := ⟨by decide, .sine, by decide⟩
    bitcnt_le := h.bitcnt_le
    trace_one_low := h.trace_one_low }

/-- From Unattached (AD.BEGIN, AD.ATTACH) and from Resetting (AD.RESET on a bad bus, AD.DETACH). -/
theorem witness_AdStateMachine_other_states :
    (∃ t es, Inv unattached ∧ adState unattached = .unattached ∧ exec .adBegin unattached = .next t ∧
      t.busy = false ∧ t.trace = unattached.trace ++ es ∧ t.status = .deviceNotAttached) ∧
    (∃ t es, exec .adAttach unattached = .next t ∧ t.busy = false ∧ t.trace = unattached.trace ++ es ∧
      t.status = .ok) ∧
    (∃ t es, Inv resetting ∧ adState resetting = .resetting ∧ exec .adReset resetting = .next t ∧ t.busy = false ∧
      t.trace = resetting.trace ++ es ∧ t.status = .gpioFault) ∧
    ∃ t es, exec .adDetach resetting = .next t ∧ t.busy = false ∧ t.trace = resetting.trace ++ es :=
  ⟨⟨_, [], inv_unattached, rfl, rfl, by decide, rfl, by decide⟩, ⟨_, _, rfl, by decide, rfl, by decide⟩,
    ⟨_, [], inv_resetting, rfl, rfl, by decide, rfl, by decide⟩, ⟨_, [], rfl, by decide, rfl⟩⟩

theorem witness_SetFreqDelivers : Inv (ready true) ∧ (ready true).busy = false ∧ BitVec.toInt 1#8 = 1 ∧
    0 ≤ freqOperand (ready true).cfg 0x3E80000#48 ∧ (ready true).ad.att = true ∧ (ready true).busOk = true ∧
    (ready true).portsReady 153 153 ∧ (ready true).lines.sck = true ∧ Chan.cs1 ≠ (ready true).ad.cs :=
  ⟨inv_good _ _ _, rfl, by decide, by decide, rfl, rfl, ports_good _ _ _ _, rfl, by decide⟩

theorem witness_BeginDelivers : Inv (ready true) ∧ (ready true).busy = false ∧ (ready true).ad.att = true ∧
    (ready true).busOk = true ∧ (ready true).portsReady 153 154 ∧ (ready true).lines.sck = true :=
  ⟨inv_good _ _ _, rfl, rfl, rfl, ports_good _ _ _ _, rfl⟩

theorem witness_McpWriteResult : (ready false).mcp.att = true ∧ (ready false).busOk = true ∧
    (ready false).portsReady 51 51 := ⟨rfl, rfl, ports_good _ _ _ _⟩

theorem witness_InvalidArgumentCauses :
    (¬(BitVec.toInt 2#8 = 0 ∨ BitVec.toInt 2#8 = 1) ∧ ¬(BitVec.toInt (-1#8) = 0 ∨ BitVec.toInt (-1#8) = 1)) ∧
    freqOperand State.reset.cfg (-1#48) < 0 ∧
    ∃ t, exec (.adSetAct 2#8) State.reset = .next t ∧ t.replies = State.reset.replies ++ [.invalidArgument] :=
  ⟨by decide, by decide, _, rfl, by decide⟩

theorem witness_UnattachedDriverRejects :
    State.reset.ad.att = false ∧ State.reset.mcp.att = false ∧ BitVec.toInt 1#8 = 1 ∧
    0 ≤ freqOperand State.reset.cfg 0#48 ∧
    ∃ t, exec .adBegin State.reset = .next t ∧ t.replies = State.reset.replies ++ [.deviceNotAttached] :=
  ⟨by decide, by decide, by decide, by decide, _, rfl, by decide⟩

theorem witness_BadBusRaisesGpioFault :
    let s : State := { ready true with busOk := false }
    s.busOk = false ∧ (Instr.xfer .cs0 mode0 [1#16]).legalIn s.cfg = true ∧ profileAllowed s.cfg mode0 = true ∧
    s.mcp.att = true ∧ s.ad.att = true ∧ BitVec.toInt 1#8 = (if true then 1 else 0) ∧ 0 ≤ freqOperand s.cfg 0#48 := by
  decide

theorem witness_FailedRequestIsLastEvent :
    (∃ t, exec (.cfgIdle mode2) (failing 0) = .next t ∧ (failing 0).busOk = true ∧
      t.replies = (failing 0).replies ++ [.gpioFault]) ∧
    ∃ t, exec (.mcpWrite 0#32) (failing 1) = .next t ∧ (failing 1).busOk = true ∧
      t.replies = (failing 1).replies ++ [.gpioFault] :=
  ⟨⟨_, rfl, rfl, by decide⟩, ⟨_, rfl, rfl, by decide⟩⟩

theorem witness_CommandsReportOneStatus :
    (∃ t, Instr.adDetach.legalIn (ready true).cfg = true ∧ exec .adDetach (ready true) = .next t ∧ t.busy = false) ∧
    ∃ t, Instr.adAttach.legalIn (good true 0x2000#16 [.never] []).cfg = true ∧
      exec .adAttach (good true 0x2000#16 [.never] []) = .next t ∧ t.busy = true :=
  ⟨⟨_, rfl, rfl, by decide⟩, ⟨_, rfl, rfl, by decide⟩⟩

theorem witness_InvAtReset : Config.default.wf = true := by decide

theorem witness_StepKeepsInv :
    Inv ((ready true).setCmds [0x1800000000000000#64]) ∧
    ∃ t, step ((ready true).setCmds [0x1800000000000000#64]) = .next t :=
  ⟨{ cfg_wf := by decide
     one_low := rfl
     lines_idle := fun _ _ => ⟨rfl, rfl⟩
     unattached := fun h => by cases h
     ctrl_legal := ⟨by decide, .sine, by decide⟩
     bitcnt_le := by decide
     trace_one_low := by intro st h; cases h },
    _, rfl⟩

theorem witness_RegistersHaveTheirWriters : ∃ t, exec (.adSetCs 1#32) (ready true) = .next t ∧
    (Instr.adSetCs 1#32 ≠ .adAttach ∧ Instr.adSetCs 1#32 ≠ .adDetach ∧ Instr.adSetCs 1#32 ≠ .adBegin ∧
      Instr.adSetCs 1#32 ≠ .adReset ∧ Instr.adSetCs 1#32 ≠ .adShutdown ∧ Instr.adSetCs 1#32 ≠ .mcpAttach ∧
      Instr.adSetCs 1#32 ≠ .mcpDetach) :=
  ⟨_, rfl, by decide⟩

theorem witness_PortlessCommandsKeepTheBus :
    (∃ t, exec .adDetach (ready true) = .next t) ∧ (∃ t, exec .mcpDetach (ready true) = .next t) ∧
    (∃ t, exec (.adSetCs 2#32) (ready true) = .next t) ∧ ∃ t, exec (.mcpSetCs 2#32) (ready true) = .next t :=
  ⟨⟨_, rfl⟩, ⟨_, rfl⟩, ⟨_, rfl⟩, ⟨_, rfl⟩⟩

theorem witness_ClockIdlesAtLastProfile :
    (∃ t, exec (.cfgIdle mode2) (ready false) = .next t ∧ t.replies = (ready false).replies ++ [.ok]) ∧
    (∃ t, exec .adAttach (ready false) = .next t ∧ t.replies = (ready false).replies ++ [.ok]) ∧
    (∃ t, exec .mcpAttach (ready true) = .next t ∧ t.replies = (ready true).replies ++ [.ok]) ∧
    ∃ t, exec .mcpDetach (ready true) = .next t ∧ t.replies = (ready true).replies ++ [.ok] :=
  ⟨⟨_, rfl, by decide⟩, ⟨_, rfl, by decide⟩, ⟨_, rfl, by decide⟩, ⟨_, rfl, by decide⟩⟩

theorem witness_TraceIsNotRead : ∃ t, exec .adAttach (ready true) = .next t ∧ t.trace ≠ [] := ⟨_, rfl, by decide⟩

set_option maxRecDepth 100000 in
theorem witness_EventCounts :
    Instr.adAttach.legalIn (ready true).cfg = true ∧ Instr.adShutdown.legalIn (ready true).cfg = true ∧
    (∃ t es, exec .adAttach (ready true) = .next t ∧ t.replies = (ready true).replies ++ [.ok] ∧
      t.trace = (ready true).trace ++ es) ∧
    ∃ t es, exec .adShutdown (ready true) = .next t ∧ t.replies = (ready true).replies ++ [.ok] ∧
      t.trace = (ready true).trace ++ es :=
  ⟨by decide, by decide, ⟨_, _, rfl, by decide, rfl⟩, ⟨_, _, rfl, by decide, rfl⟩⟩

theorem witness_ViewRegisters : viewReg 4 (ready true) ≠ none ∧ 5 ≤ 5 := by decide

theorem witness_HostSeesResetting :
    let s := good true 0x2000#16 [] (List.replicate 51 .elapsed ++ [.never])
    s.ad.att = true ∧ s.busOk = true ∧ s.portsReady 51 51 ∧ s.waits[51]? = some .never := by
  refine ⟨rfl, rfl, ⟨?_, ?_⟩, by decide⟩
  · intro a h
    simp [good] at h
  · decide

/-- Accepted, rejected, a settle delay that does not end, a request that is not answered. -/
theorem witness_PinsFollowLastRequest :
    (∃ t es, exec (.cfgIdle mode2) (ready false) = .next t ∧ t.trace = (ready false).trace ++ es ∧
      eventStates es ≠ [] ∧ t.replies = (ready false).replies ++ [.ok]) ∧
    (∃ t es, exec (.cfgIdle mode2) (failing 0) = .next t ∧ t.trace = (failing 0).trace ++ es ∧
      eventStates es ≠ [] ∧ t.replies = (failing 0).replies ++ [.gpioFault]) ∧
    (∃ t es, exec (.cfgIdle mode2) { State.reset with waits := [.never] } = .next t ∧
      t.trace = State.reset.trace ++ es ∧ eventStates es ≠ [] ∧ t.busy = true ∧ es.getLast? = some (.dly 1000)) ∧
    ∃ t es, exec (.cfgIdle mode2) { ready true with answers := [.never] } = .next t ∧
      t.trace = (ready true).trace ++ es ∧ eventStates es ≠ [] ∧ t.busy = true ∧
      es.getLast? = some (.cfg 0x2F#8 0x2F#8 0x0F#8) :=
  ⟨⟨_, _, rfl, rfl, by decide, by decide⟩, ⟨_, _, rfl, rfl, by decide, by decide⟩,
    ⟨_, _, rfl, rfl, by decide, by decide, by decide⟩, ⟨_, _, rfl, rfl, by decide, by decide, by decide⟩⟩

theorem witness_AnsweredCommandsEnd : Answer.never ∉ (failing 3).answers ∧ Wait.never ∉ (failing 3).waits ∧
    ∃ t, exec .adBegin (failing 3) = .next t := ⟨by decide, by decide, _, rfl⟩

end Sys2Proof.Tests
end

section
/-! PROOFS. The scope family: how many words an XFER carries, and the width of the frequency operand. -/

/-! ### What each format's decoder accepts (R71, R77) -/

namespace Sys2Proof

variable {w : Cmd} {i : Instr}

theorem decodeN_eq_ok {j : Instr} : decodeN j w = .ok i ↔ field 56 0 w = 0#56 ∧ j = i := by
  unfold decodeN; split_ifs with h <;> simp [h]

theorem decodeI_eq_ok {mk : BitVec 32 → Instr} :
    decodeI mk w = .ok i ↔ field 24 32 w = 0#24 ∧ mk (field 32 0 w) = i := by
  unfold decodeI; split_ifs with h <;> simp [h]

theorem decodeC_eq_ok {mk : BitVec 8 → Instr} :
    decodeC mk w = .ok i ↔ field 48 0 w = 0#48 ∧ mk (field 8 48 w) = i := by
  unfold decodeC; split_ifs with h <;> simp [h]

theorem decodeF_eq_ok {mk : BitVec 8 → BitVec 48 → Instr} :
    decodeF mk w = .ok i ↔ mk (field 8 48 w) (field 48 0 w) = i := by simp [decodeF]

theorem decodeM_eq_ok {mk : Mode → Instr} :
    decodeM mk w = .ok i ↔
      (field 5 51 w = 0#5 ∧ field 48 0 w = 0#48) ∧ ∃ m, Mode.ofBits (field 3 48 w) = some m ∧ mk m = i := by
  unfold decodeM
  split_ifs with h
  · cases Mode.ofBits (field 3 48 w) <;> simp [h]
  · simp [h]

theorem decodeP_eq_ok {mk : Profile → Instr} :
    decodeP mk w = .ok i ↔
      (field 5 51 w = 0#5 ∧ field 48 0 w = 0#48) ∧ mk (Profile.ofBits (field 3 48 w)) = i := by
  unfold decodeP; split_ifs with h <;> simp [h]

theorem decodeX_eq_ok {mk : Chan → Profile → List Word → Instr} :
    decodeX mk w = .ok i ↔
      field 1 55 w = 0#1 ∧ field 2 53 w ≠ 0#2 ∧
        ∃ c, Chan.ofBits (field 2 51 w) = some c ∧ mk c (Profile.ofBits (field 3 48 w)) (xferWords w) = i := by
  unfold decodeX
  by_cases h : field 1 55 w = 0#1
  · cases Chan.ofBits (field 2 51 w) <;> by_cases hn : field 2 53 w = 0#2 <;> simp [h, hn]
  · simp [h]

/-! ### The opcode of a decoded command (R72) -/

section
variable {o : BitVec 8}

theorem opcode_of_decodeN {j : Instr} (hj : o = j.opcode) : decodeN j w = .ok i → o = i.opcode := by
  rw [decodeN_eq_ok]; rintro ⟨-, rfl⟩; exact hj

theorem opcode_of_decodeI {mk : BitVec 32 → Instr} (hmk : ∀ imm, o = (mk imm).opcode) :
    decodeI mk w = .ok i → o = i.opcode := by
  rw [decodeI_eq_ok]; rintro ⟨-, rfl⟩; exact hmk _

theorem opcode_of_decodeC {mk : BitVec 8 → Instr} (hmk : ∀ ch, o = (mk ch).opcode) :
    decodeC mk w = .ok i → o = i.opcode := by
  rw [decodeC_eq_ok]; rintro ⟨-, rfl⟩; exact hmk _

theorem opcode_of_decodeF {mk : BitVec 8 → BitVec 48 → Instr} (hmk : ∀ ch f, o = (mk ch f).opcode) :
    decodeF mk w = .ok i → o = i.opcode := by
  rw [decodeF_eq_ok]; rintro rfl; exact hmk _ _

theorem opcode_of_decodeM {mk : Mode → Instr} (hmk : ∀ m, o = (mk m).opcode) :
    decodeM mk w = .ok i → o = i.opcode := by
  rw [decodeM_eq_ok]; rintro ⟨-, m, -, rfl⟩; exact hmk m

theorem opcode_of_decodeP {mk : Profile → Instr} (hmk : ∀ p, o = (mk p).opcode) :
    decodeP mk w = .ok i → o = i.opcode := by
  rw [decodeP_eq_ok]; rintro ⟨-, rfl⟩; exact hmk _

theorem opcode_of_decodeX {mk : Chan → Profile → List Word → Instr} (hmk : ∀ c p ws, o = (mk c p ws).opcode) :
    decodeX mk w = .ok i → o = i.opcode := by
  rw [decodeX_eq_ok]; rintro ⟨-, -, c, -, rfl⟩; exact hmk c _ _

/-- One row of the opcode map: the command is the row's, or a later row's. -/
theorem opc_of_row {d e : Except Reject Instr} (hd : d = .ok i → o = i.opcode) (he : e = .ok i → opc w = i.opcode) :
    (if opc w = o then d else e) = .ok i → opc w = i.opcode := by
  by_cases ho : opc w = o
  · rw [if_pos ho, ho]; exact hd
  · rw [if_neg ho]; exact he
end

/-- R72: a word that decodes carries the opcode of its command. -/
theorem opc_of_decode_eq_ok : decode w = .ok i → opc w = i.opcode :=
  opc_of_row (opcode_of_decodeP fun _ => rfl) <|
  opc_of_row (opcode_of_decodeX fun _ _ _ => rfl) <|
  opc_of_row (opcode_of_decodeN rfl) <|
  opc_of_row (opcode_of_decodeN rfl) <|
  opc_of_row (opcode_of_decodeI fun _ => rfl) <|
  opc_of_row (opcode_of_decodeN rfl) <|
  opc_of_row (opcode_of_decodeN rfl) <|
  opc_of_row (opcode_of_decodeF fun _ _ => rfl) <|
  opc_of_row (opcode_of_decodeC fun _ => rfl) <|
  opc_of_row (opcode_of_decodeM fun _ => rfl) <|
  opc_of_row (opcode_of_decodeN rfl) <|
  opc_of_row (opcode_of_decodeN rfl) <|
  opc_of_row (opcode_of_decodeN rfl) <|
  opc_of_row (opcode_of_decodeI fun _ => rfl) <|
  opc_of_row (opcode_of_decodeI fun _ => rfl) nofun

/-- R72: the words with XFER's opcode are read in format X. -/
theorem decode_of_opc_xfer (h : opc w = 0x02#8) : decode w = decodeX .xfer w := by simp [decode, h]

/-- R75, R77 (d): a word that decodes to an XFER counts at least one word, and the words are those it counts. -/
theorem decode_eq_ok_xfer {c : Chan} {p : Profile} {ws : List Word} (h : decode w = .ok (.xfer c p ws)) :
    field 2 53 w ≠ 0#2 ∧ ws = xferWords w := by
  rw [decode_of_opc_xfer (opc_of_decode_eq_ok h), decodeX_eq_ok] at h
  obtain ⟨-, hcnt, c', -, hi⟩ := h
  cases hi
  exact ⟨hcnt, rfl⟩

/-! ### The number of words of an XFER (R75, R76) -/

theorem xferWords_length (w : Cmd) : (xferWords w).length = (field 2 53 w).toNat := by
  have := (field 2 53 w).isLt
  simp only [xferWords, List.length_take, List.length_cons, List.length_nil]
  omega

theorem legalIn_xfer {cfg : Config} {c : Chan} {p : Profile} {ws : List Word} :
    (Instr.xfer c p ws).legalIn cfg = true ↔ 1 ≤ ws.length ∧ ws.length ≤ 3 ∧ ws.length ≤ cfg.xferMax := by
  simp [Instr.legalIn, Instr.wf, and_assoc]

/-- R76, R79: where `XFER_MAX` is 3, a block can carry every command a word decodes to. -/
theorem legalIn_of_decode_eq_ok {cfg : Config} (hmax : 3 ≤ cfg.xferMax) (h : decode w = .ok i) :
    i.legalIn cfg = true := by
  cases i with
  | xfer c p ws =>
    obtain ⟨hcnt, rfl⟩ := decode_eq_ok_xfer h
    have hpos : (field 2 53 w).toNat ≠ 0 := fun h0 => hcnt (BitVec.eq_of_toNat_eq h0)
    have hlt := (field 2 53 w).isLt
    rw [legalIn_xfer, xferWords_length]
    omega
  | _ => rfl

end Sys2Proof

namespace Sys2Proof.Machine

/-- R195: an illegal command changes the status and what the host sees of it, and nothing else. -/
theorem illegal_eq (s : State) : illegal s = .next (s.close .illegalCommand) := rfl

/-- R79, R195 (log 2, log 15): an XFER the block cannot carry is an illegal command. -/
theorem exec_xfer_of_not_legalIn {c : Chan} {p : Profile} {ws : List Word} {s : State}
    (h : ¬ (Instr.xfer c p ws).legalIn s.cfg = true) :
    exec (.xfer c p ws) s = .next (s.close .illegalCommand) := by
  rw [exec, execXfer, if_neg h, illegal_eq]

/-- Settles O57: no such count is legal, and the two bits of `CNT2` count at most three words. -/
theorem xferCountIsBounded : Obligations.XferCountIsBounded := by
  refine ⟨fun c p ws s hws => exec_xfer_of_not_legalIn fun hlegal => ?_, fun w i cfg => legalIn_of_decode_eq_ok⟩
  obtain ⟨hpos, hthree, hmax⟩ := legalIn_xfer.1 hlegal
  rcases hws with rfl | hlong | hlong
  · exact absurd hpos (by decide)
  · omega
  · omega

/-! ### The frequency operand (R75) -/

/-- R6, R75: the operand is the residue of the field modulo `2^FREQ_W` of least magnitude. -/
theorem freqOperand_eq_bmod {cfg : Config} (h : cfg.freqW ≤ 48) (f : BitVec 48) :
    freqOperand cfg f = (f.toNat : Int).bmod (2 ^ cfg.freqW) :=
  BitVec.toInt_signExtend_eq_toNat_bmod_of_le h

/-- Settles O58: a `FREQ_W`-bit two's-complement number is in its range, and is congruent to the field. -/
theorem freqOperandIsSigned : Obligations.FreqOperandIsSigned := by
  refine fun cfg f => ⟨fun hfull => freqOperand_full cfg hfull f, fun _ hle => ⟨?_, ?_, ?_⟩⟩
  · exact BitVec.le_toInt _
  · exact BitVec.toInt_lt
  · rw [freqOperand_eq_bmod hle]
    exact_mod_cast Int.dvd_bmod_sub_self

end Sys2Proof.Machine
end

section
/-! PROOFS. The state family, registers and views: the bits of `Pack()` and of the view registers, the shifter, and the
values after reset. -/

namespace Sys2Proof.Machine

/-! ### `Pack()` (R22) -/

theorem levelAt_lineBit (i pos : Fin 8) (b : Bool) : levelAt i (lineBit pos b) = (decide (i = pos) && b) := by
  cases b with
  | false => simp [levelAt, lineBit]
  | true =>
    rw [levelAt, lineBit, if_pos rfl, ← BitVec.twoPow_eq, BitVec.getLsbD_twoPow]
    simp [Fin.ext_iff, eq_comm]

/-- R22: a bit of `Pack()` is the level of the line at that position, if there is one. -/
theorem levelAt_pack (i : Fin 8) (cfg : Config) (l : Lines) :
    levelAt i (pack cfg l) = (decide (i = cfg.cs0Bit) && l.cs0 || decide (i = cfg.cs1Bit) && l.cs1 ||
      decide (i = cfg.cs2Bit) && l.cs2 || decide (i = cfg.sckBit) && l.sck || decide (i = cfg.sdoBit) && l.sdo) := by
  simp only [← levelAt_lineBit]
  simp only [levelAt, pack, BitVec.getLsbD_or]

theorem linesDistinct_iff {cfg : Config} : cfg.linesDistinct = true ↔
    [cfg.cs0Bit, cfg.cs1Bit, cfg.cs2Bit, cfg.sckBit, cfg.sdoBit].Nodup := decide_eq_true_iff

/-- Settles O17: where the positions differ, at most one of the five lines contributes to a bit. -/
theorem packBits : Obligations.PackBits := by
  intro cfg l h
  have hd := linesDistinct_iff.1 h
  simp only [List.nodup_cons, List.mem_cons, List.not_mem_nil, or_false, not_or] at hd
  obtain ⟨⟨h01, h02, h0k, h0d⟩, ⟨h12, h1k, h1d⟩, ⟨h2k, h2d⟩, hkd, -⟩ := hd
  refine ⟨?_, ?_, ?_, ?_, ?_, fun i hi => ?_⟩
  · simp [levelAt_pack, h01, h02, h0k, h0d]
  · simp [levelAt_pack, Ne.symm h01, h12, h1k, h1d]
  · simp [levelAt_pack, Ne.symm h02, Ne.symm h12, h2k, h2d]
  · simp [levelAt_pack, Ne.symm h0k, Ne.symm h1k, Ne.symm h2k, hkd]
  · simp [levelAt_pack, Ne.symm h0d, Ne.symm h1d, Ne.symm h2d, Ne.symm hkd]
  · simp only [List.mem_cons, List.not_mem_nil, or_false, not_or] at hi
    obtain ⟨h0, h1, h2, hk, hd⟩ := hi
    simp [levelAt_pack, h0, h1, h2, hk, hd]

/-- R22: a line state carries the lines wherever their positions differ. -/
theorem carries_of_linesDistinct {cfg : Config} (h : cfg.linesDistinct = true) : Carries cfg where
  cs c l := by
    obtain ⟨h0, h1, h2, -⟩ := packBits cfg l h
    cases c with
    | cs0 => exact h0
    | cs1 => exact h1
    | cs2 => exact h2
  sck l := (packBits cfg l h).2.2.2.1
  sdo l := (packBits cfg l h).2.2.2.2.1

/-! ### The shifter (R36, R103) -/

theorem shifter_iterate_advance (w : Word) (k : Nat) (lsbf : Bool) (j : Nat) :
    (fun sh => Shifter.advance sh lsbf)^[j] (Shifter.load w k) = Shifter.after w k lsbf j := by
  induction j with
  | zero => exact shifter_after_zero w k lsbf
  | succ j ih => rw [Function.iterate_succ_apply', ih, shifter_after_succ]

/-- Settles O18: after `j` bits the shifter holds the word shifted by `j`. -/
theorem shifterPresentsSlots : Obligations.ShifterPresentsSlots := by
  intro w k j lsbf
  rw [shifter_iterate_advance, shifter_iterate_advance]
  exact ⟨shifter_after_out w k lsbf, rfl⟩

/-! ### The view registers (R35) -/

/-- R35: the bits of `V_STATUS`, for every status code. -/
theorem viewStatus_bits : ∀ (code : BitVec 3) (busy busOk : Bool),
    let v : Word := code.setWidth 16 ||| viewBit 3 busy ||| viewBit 4 busOk
    v.extractLsb' 0 3 = code ∧ v.getLsbD 3 = busy ∧ v.getLsbD 4 = busOk ∧ v.extractLsb' 5 11 = 0#11 := by decide

/-- R35: the bits of `V_AD`, and with `b = 0` those of `V_MCP`. -/
theorem viewDriver_bits : ∀ (a b : Bool) (c : BitVec 2),
    let v : Word := viewBit 0 a ||| viewBit 1 b ||| (c.setWidth 16 <<< 2)
    v.getLsbD 0 = a ∧ v.getLsbD 1 = b ∧ v.extractLsb' 2 2 = c ∧ v.extractLsb' 4 12 = 0#12 := by decide

/-- R35: the bits of `V_LINE`. -/
theorem viewLine_bits (st : LineState) :
    (st.setWidth 16).extractLsb' 0 8 = st ∧ (st.setWidth 16).extractLsb' 8 8 = 0#8 := by
  constructor
  · ext i hi; have : i < 16 := by omega
    simp [hi, this]
  · ext i hi; simp

/-- Settles O53: each register is the bits of its fields put side by side. -/
theorem viewRegisters : Obligations.ViewRegisters := by
  intro s
  refine ⟨⟨_, rfl, viewStatus_bits _ _ _⟩, ⟨_, rfl, viewLine_bits _⟩, rfl, ⟨_, rfl, viewDriver_bits _ _ _⟩,
    ⟨_, rfl, ?_⟩, fun n hn => ?_⟩
  · simpa [viewBit] using viewDriver_bits s.mcp.att false s.mcp.cs.toBits
  · obtain ⟨k, rfl⟩ := Nat.exists_eq_add_of_le' hn
    rfl

/-! ### The values after reset (R42) -/

/-- Settles O10: the reset state is written out as the rule gives it. -/
theorem resetValues : Obligations.ResetValues :=
  ⟨fun _ => ⟨rfl, rfl, rfl, rfl, rfl, rfl, rfl⟩, rfl, rfl, rfl⟩

/-- R28: a clear image is legal. -/
theorem legalCtrl_zero (cfg : Config) : legalCtrl cfg 0#16 := ⟨by simp, .sine, by simp [modeBits]⟩

theorem inv_resetWith {cfg : Config} (h : cfg.wf = true) : Inv (State.resetWith cfg) where
  cfg_wf := h
  one_low := rfl
  lines_idle := nofun
  unattached _ := ⟨rfl, rfl⟩
  ctrl_legal := legalCtrl_zero cfg
  bitcnt_le := by simp [State.resetWith]
  trace_one_low := nofun

/-- Settles O46: nothing is driven, attached or traced after reset. -/
theorem invAtReset : Obligations.InvAtReset := ⟨inv_resetWith (by decide), fun _ => inv_resetWith⟩

end Sys2Proof.Machine
end

section
/-! PROOFS. The state family, what a command can do: its lines as one function, the registers it writes itself, and the
principle that what holds where it is accepted, and is kept by its register writes and by the bus procedures, holds
wherever it goes on or stops. -/

namespace Sys2Proof.Machine

variable {s t u : State} {i : Instr} {P : Bool → State → Prop}

/-! ### The lines of a command -/

/-- The lines of a command's rule, from the state in which it is accepted. -/
def body (i : Instr) (s : State) : Run :=
  match i with
  | .cfgIdle p => cfgIdleProc p s
  | .xfer c p ws =>
    if (Instr.xfer c p ws).legalIn s.cfg then transfer (ws.map (sentWord s.cfg p)) c p s else raise .illegalCommand s
  | .adAttach => (cfgIdleProc s.cfg.adProfile s).andThen fun t => .go (t.setAdAtt true)
  | .adDetach => .go (((s.setAdCtrl 0#16).setAdRst false).setAdAtt false)
  | .adSetCs imm => .go (s.setAdCs (chanOfIndex imm.toInt))
  | .adBegin => (requireAd s).andThen fun t => (writeReg (putCtrl .b28 true t)).andThen resetSeq
  | .adReset => (requireAd s).andThen resetSeq
  | .adSetFreq ch f => setFreqProc ch f s
  | .adSetAct ch =>
    (require (isFreqChannel ch.toInt) .invalidArgument s).andThen fun t =>
    (requireAd t).andThen fun u => writeReg (putCtrl .fselect (decide (ch.toInt = 1)) u)
  | .adSetMode m => setModeProc m s
  | .adShutdown => setModeProc .off s
  | .mcpAttach => (cfgIdleProc s.cfg.mcpProfile s).andThen fun t => .go (t.setMcpAtt true)
  | .mcpDetach => .go (s.setMcpAtt false)
  | .mcpSetCs imm => .go (s.setMcpCs (chanOfIndex imm.toInt))
  | .mcpWrite imm =>
    (requireMcp s).andThen fun t => transfer [mcpWord t.cfg imm.toInt] t.mcp.cs t.cfg.mcpProfile t

/-- R76: an XFER that the block can carry sends at least one word. -/
theorem sentWords_ne_nil {c : Chan} {p : Profile} {ws : List Word} (h : (Instr.xfer c p ws).legalIn s.cfg = true) :
    ws.map (sentWord s.cfg p) ≠ [] := fun h0 => by
  have hpos := (legalIn_xfer.1 h).1
  rw [List.map_eq_nil_iff.1 h0] at hpos
  exact absurd hpos (by decide)

/-- R51, R58: a command that is neither refused nor at fault runs its lines from where it is accepted to its end. -/
theorem eq_finish_body_of_exec (h : exec i s = .next t) : t = (body i s.accept).finish := by
  cases i with
  | cfgIdle p =>
    rw [exec, execCfgIdle] at h
    split_ifs at h
    exact (Host.Outcome.next.inj h).symm
  | xfer c p ws =>
    rw [exec, execXfer] at h
    rw [body, State.accept_cfg]
    split_ifs at h with hl
    · rw [if_pos hl]; exact (Host.Outcome.next.inj h).symm
    · rw [if_neg hl]; exact (Host.Outcome.next.inj h).symm
  | adSetFreq ch f =>
    rw [exec, execAdSetFreq] at h
    split_ifs at h
    exact (Host.Outcome.next.inj h).symm
  | _ => exact (Host.Outcome.next.inj h).symm

/-! ### The driver registers a command writes -/

/-- The writes of driver registers in the lines of a command. AD.BEGIN, AD.RESET, AD.SETACT and the two mode commands
make theirs only with the driver attached. -/
inductive RegWrite : Instr → State → State → Prop
  | adAttach (s : State) : RegWrite .adAttach s (s.setAdAtt true)
  | adDetach (s : State) : RegWrite .adDetach s (((s.setAdCtrl 0#16).setAdRst false).setAdAtt false)
  | adCs (s : State) (imm : BitVec 32) (c : Chan) : RegWrite (.adSetCs imm) s (s.setAdCs c)
  | b28 (s : State) (ha : s.ad.att = true) : RegWrite .adBegin s (putCtrl .b28 true s)
  | reset (i : Instr) (s : State) (b : Bool) (hi : i = .adBegin ∨ i = .adReset) (ha : s.ad.att = true) :
      RegWrite i s (putCtrl .reset b s)
  | rst (i : Instr) (s : State) (b : Bool) (hi : i = .adBegin ∨ i = .adReset) (ha : s.ad.att = true) :
      RegWrite i s (s.setAdRst b)
  | fselect (s : State) (ch : BitVec 8) (b : Bool) (ha : s.ad.att = true) :
      RegWrite (.adSetAct ch) s (putCtrl .fselect b s)
  | mode (i : Instr) (s : State) (m : Mode) (hi : i = .adShutdown ∨ i = .adSetMode m) (ha : s.ad.att = true) :
      RegWrite i s (s.setAdCtrl (ctrlWithMode s.cfg.modes m s.ad.ctrl))
  | mcpAttach (s : State) : RegWrite .mcpAttach s (s.setMcpAtt true)
  | mcpDetach (s : State) : RegWrite .mcpDetach s (s.setMcpAtt false)
  | mcpCs (s : State) (imm : BitVec 32) (c : Chan) : RegWrite (.mcpSetCs imm) s (s.setMcpCs c)

@[simp] theorem putCtrl_ad (f : CtrlField) (b : Bool) (s : State) :
    (putCtrl f b s).ad = { s.ad with ctrl := ctrlPut s.cfg.ctrl f b s.ad.ctrl } := rfl

@[simp] theorem putCtrl_mcp (f : CtrlField) (b : Bool) (s : State) : (putCtrl f b s).mcp = s.mcp := rfl

/-! ### How the bus procedures end -/

/-- What the bus procedures have in common: they go on, raise `GpioFault` or never end, and have written at most what
`State.onBus` lists. -/
inductive BusEnds (s : State) : Run → Prop
  | go (l : Lines) (es : List Event) (b : Bool) (sh : Shifter) (as : List Answer) (ws : List Wait) :
      BusEnds s (.go (s.onBus l es b sh as ws))
  | fault (l : Lines) (es : List Event) (b : Bool) (sh : Shifter) (as : List Answer) (ws : List Wait) :
      BusEnds s (.stop ((s.onBus l es b sh as ws).close .gpioFault))
  | never (l : Lines) (es : List Event) (b : Bool) (sh : Shifter) (as : List Answer) (ws : List Wait) :
      BusEnds s (.stop (s.onBus l es b sh as ws))

theorem onBus_self (s : State) : s.onBus s.lines [] s.busOk s.shifter s.answers s.waits = s := by simp [State.onBus]

theorem transfer_busEnds (ws : List Word) (c : Chan) (p : Profile) (s : State) : BusEnds s (transfer ws c p s) := by
  cases hb : s.busOk with
  | false =>
    rw [transfer_busOk_false _ _ _ hb]
    simpa only [onBus_self, raise] using BusEnds.fault (s := s) s.lines [] s.busOk s.shifter s.answers s.waits
  | true =>
    have h := transfer_ends ws c p hb
    generalize transfer ws c p s = r at h
    cases h with
    | sent => exact .go ..
    | failed => exact .fault ..
    | unanswered => exact .never ..
    | waiting => exact .never ..

theorem cfgIdleProc_busEnds (p : Profile) (s : State) : BusEnds s (cfgIdleProc p s) := by
  rcases cfgIdleProc_ends p s with ⟨_, _, h⟩ | ⟨_, _, h⟩ | ⟨_, _, h, -⟩ | ⟨_, _, h, -⟩
  · exact h ▸ .go ..
  · exact h ▸ .fault ..
  · exact h ▸ .never ..
  · exact h ▸ .never ..

theorem delay_busEnds (n : Nat) (s : State) : BusEnds s (delay n s) := by
  rcases delay_ends n s with ⟨_, h, -⟩ | ⟨_, h, -⟩
  · exact h ▸ .go ..
  · exact h ▸ .never ..

theorem BusEnds.holds {r : Run} (h : BusEnds s r) (hgo : ∀ b l es bo sh as ws, P b (s.onBus l es bo sh as ws))
    (hfault : ∀ l es bo sh as ws, P false ((s.onBus l es bo sh as ws).close .gpioFault)) : r.Holds P := by
  cases h with
  | go => exact hgo ..
  | fault => exact hfault ..
  | never => exact hgo ..

/-- The bus procedures leave the drivers' registers, the configuration and the host's queue alone. -/
theorem BusEnds.frame {r : Run} (h : BusEnds s r) : r.Holds fun _ t => BusFrame s t :=
  h.holds (fun _ _ _ _ _ _ _ => ⟨rfl, rfl, rfl, rfl⟩) fun _ _ _ _ _ _ => ⟨rfl, rfl, rfl, rfl⟩

/-! ### What holds wherever a command is -/

theorem Run.Holds.and {Q : Bool → State → Prop} {r : Run} (hP : r.Holds P) (hQ : r.Holds Q) :
    r.Holds fun b t => P b t ∧ Q b t := by
  cases r with
  | go t => exact ⟨hP, hQ⟩
  | stop t => exact ⟨hP, hQ⟩

/-- `P` is kept by everything the lines of command `i` are made of. -/
structure Stable (i : Instr) (P : Bool → State → Prop) : Prop where
  write : ∀ s t, P true s → RegWrite i s t → P true t
  reject : ∀ s e, P true s → e ≠ .ok → e ≠ .gpioFault → P false (s.close e)
  transfer : ∀ ws c p s, ws ≠ [] → P true s → (transfer ws c p s).Holds P
  cfgIdle : ∀ p s, P true s → (cfgIdleProc p s).Holds P
  delay : ∀ n s, P true s → (delay n s).Holds P

/-- A property that every bus procedure keeps whatever it writes is stable under a command whose writes keep it. -/
theorem Stable.of_onBus (hw : ∀ s t, P true s → RegWrite i s t → P true t)
    (hclose : ∀ s e, P true s → e ≠ .ok → P false (s.close e))
    (hbus : ∀ b s l es bo sh as ws, P true s → P b (s.onBus l es bo sh as ws)) : Stable i P := by
  have key : ∀ {s r}, BusEnds s r → P true s → r.Holds P := fun h hs =>
    h.holds (fun b _ _ _ _ _ _ => hbus b _ _ _ _ _ _ _ hs) fun _ _ _ _ _ _ =>
      hclose _ _ (hbus true _ _ _ _ _ _ _ hs) (by decide)
  exact ⟨hw, fun s e hs he _ => hclose s e hs he, fun ws c p s _ => key (transfer_busEnds ws c p s),
    fun p s => key (cfgIdleProc_busEnds p s), fun n s => key (delay_busEnds n s)⟩

theorem require_holds {c : Bool} {e : Status} (hP : P true s) (hc : c = false → P false (s.close e)) :
    (require c e s).Holds fun b t => P b t ∧ (b = true → c = true ∧ t = s) := by
  cases c with
  | true => exact ⟨hP, fun _ => ⟨rfl, rfl⟩⟩
  | false => exact ⟨hc rfl, nofun⟩

section
variable (hP : Stable i P)
include hP

/-- R8: the lines after a `require` start where it was asked, knowing what was required. -/
theorem Stable.requireThen {c : Bool} {e : Status} {f : State → Run} (he : e ≠ .ok) (he' : e ≠ .gpioFault)
    (hs : P true s) (hf : c = true → (f s).Holds P) : ((require c e s).andThen f).Holds P := by
  refine (require_holds hs fun _ => hP.reject s e hs he he').andThen (fun t ⟨_, ht⟩ => ?_) fun _ ht => ht.1
  obtain ⟨hc, rfl⟩ := ht rfl
  exact hf hc

theorem Stable.writeReg (hs : P true s) : (writeReg s).Holds fun b t => P b t ∧ t.ad.att = s.ad.att :=
  (hP.transfer _ _ _ s (by simp) hs).and ((transfer_busEnds ..).frame.mono fun _ _ h => by rw [h.ad])

theorem Stable.resetSeq (hi : i = .adBegin ∨ i = .adReset) (ha : s.ad.att = true) (hs : P true s) :
    (resetSeq s).Holds P := by
  refine (hP.writeReg (hP.write _ _ hs (.reset i s true hi ha))).andThen (fun t ⟨ht, hat⟩ => ?_) fun _ h => h.1
  have hat : t.ad.att = true := hat.trans ha
  refine ((hP.delay _ _ (hP.write _ _ ht (.rst i t true hi hat))).and (delay_busEnds ..).frame).andThen
    (fun u ⟨hu, hfr⟩ => ?_) fun _ h => h.1
  have hau : u.ad.att = true := by rw [hfr.ad]; exact hat
  refine (hP.writeReg (hP.write _ _ hu (.reset i u false hi hau))).andThen (fun v ⟨hv, hav⟩ => ?_) fun _ h => h.1
  exact hP.write _ _ hv (.rst i v false hi (hav.trans hau))

/-- What is kept by everything the lines of a command are made of holds wherever the command is. -/
theorem Stable.body (hs : P true s) : (body i s).Holds P := by
  have hna : Status.deviceNotAttached ≠ .ok ∧ Status.deviceNotAttached ≠ .gpioFault := by decide
  have hia : Status.invalidArgument ≠ .ok ∧ Status.invalidArgument ≠ .gpioFault := by decide
  cases i with
  | cfgIdle p => exact hP.cfgIdle p s hs
  | xfer c p ws =>
    rw [Machine.body]
    split_ifs with hl
    · exact hP.transfer _ c p s (sentWords_ne_nil hl) hs
    · exact hP.reject s _ hs (by decide) (by decide)
  | adAttach => exact (hP.cfgIdle _ s hs).andThen (fun t ht => hP.write _ _ ht (.adAttach t)) fun _ h => h
  | adDetach => exact hP.write _ _ hs (.adDetach s)
  | adSetCs imm => exact hP.write _ _ hs (.adCs s imm _)
  | adBegin =>
    refine hP.requireThen hna.1 hna.2 hs fun ha => ?_
    refine (hP.writeReg (hP.write _ _ hs (.b28 s ha))).andThen (fun t ⟨ht, hat⟩ => ?_) fun _ h => h.1
    exact hP.resetSeq (.inl rfl) (hat.trans ha) ht
  | adReset => exact hP.requireThen hna.1 hna.2 hs fun ha => hP.resetSeq (.inr rfl) ha hs
  | adSetFreq ch f =>
    refine hP.requireThen hia.1 hia.2 hs fun _ => hP.requireThen hna.1 hna.2 hs fun _ => ?_
    exact hP.transfer _ _ _ s (by simp [freqWords]) hs
  | adSetAct ch =>
    refine hP.requireThen hia.1 hia.2 hs fun _ => hP.requireThen hna.1 hna.2 hs fun ha => ?_
    exact (hP.writeReg (hP.write _ _ hs (.fselect s ch _ ha))).mono fun _ _ h => h.1
  | adSetMode m =>
    refine hP.requireThen hna.1 hna.2 hs fun ha => ?_
    exact (hP.writeReg (hP.write _ _ hs (.mode _ s m (.inr rfl) ha))).mono fun _ _ h => h.1
  | adShutdown =>
    refine hP.requireThen hna.1 hna.2 hs fun ha => ?_
    exact (hP.writeReg (hP.write _ _ hs (.mode _ s .off (.inl rfl) ha))).mono fun _ _ h => h.1
  | mcpAttach => exact (hP.cfgIdle _ s hs).andThen (fun t ht => hP.write _ _ ht (.mcpAttach t)) fun _ h => h
  | mcpDetach => exact hP.write _ _ hs (.mcpDetach s)
  | mcpSetCs imm => exact hP.write _ _ hs (.mcpCs s imm _)
  | mcpWrite imm => exact hP.requireThen hna.1 hna.2 hs fun _ => hP.transfer _ _ _ s (by simp) hs
end

/-- What holds where a command is, holds at its end: of the state it closes with `OK` or of the one it stopped in. -/
theorem Run.Holds.finish {Q : State → Prop} {r : Run} (h : r.Holds P) (hgo : ∀ t, P true t → Q (t.close .ok))
    (hstop : ∀ t, P false t → Q t) : Q r.finish := by
  cases r with
  | go t => exact hgo t h
  | stop t => exact hstop t h

/-! ### The course of a command -/

/-- `t` is a state in the course of the command accepted in `s`: it has reported no status yet, and has only added to
the trace. -/
structure Running (s t : State) : Prop where
  cfg : t.cfg = s.cfg
  cmds : t.cmds = s.cmds
  trace : s.trace <+: t.trace
  busy : t.busy = true
  replies : t.replies = s.replies
  status : t.status = s.status

/-- Where a command is: running, or closed with an error. -/
def InCourse (s : State) (b : Bool) (t : State) : Prop :=
  Running s t ∨ b = false ∧ ∃ u e, Running s u ∧ e ≠ .ok ∧ t = u.close e

theorem RegWrite.running (h : RegWrite i t u) (ht : Running s t) : Running s u := by
  cases h <;> exact ⟨ht.cfg, ht.cmds, ht.trace, ht.busy, ht.replies, ht.status⟩

theorem Running.onBus (h : Running s t) (l : Lines) (es : List Event) (b : Bool) (sh : Shifter)
    (as : List Answer) (ws : List Wait) : Running s (t.onBus l es b sh as ws) :=
  ⟨h.cfg, h.cmds, h.trace.trans (List.prefix_append _ _), h.busy, h.replies, h.status⟩

theorem inCourse_true : InCourse s true t ↔ Running s t := by simp [InCourse]

theorem stable_inCourse (s : State) : Stable i (InCourse s) := by
  refine .of_onBus (fun t u ht hw => ?_) (fun t e ht he => ?_) fun b t l es bo sh as ws ht => ?_
  · exact .inl (hw.running (inCourse_true.1 ht))
  · exact .inr ⟨rfl, t, e, inCourse_true.1 ht, he, rfl⟩
  · exact .inl ((inCourse_true.1 ht).onBus l es bo sh as ws)

theorem running_accept (s : State) : Running s.accept s.accept := ⟨rfl, rfl, List.prefix_refl _, rfl, rfl, rfl⟩

/-- R51, R190: every way a command ends: it never does, or it closes with the status it reports, which is `OK` only
where its last line was reached. -/
theorem exec_ends (h : exec i s = .next t) :
    Running s.accept t ∨ ∃ u e, Running s.accept u ∧ t = u.close e ∧ (e = .ok → body i s.accept = .go u) := by
  have hc := (stable_inCourse (i := i) s.accept).body (inCourse_true.2 (running_accept s))
  rw [eq_finish_body_of_exec h]
  cases hr : body i s.accept with
  | go u => rw [hr] at hc; exact .inr ⟨u, .ok, inCourse_true.1 hc, rfl, fun _ => rfl⟩
  | stop u =>
    rw [hr] at hc
    rcases hc with hrun | ⟨-, v, e, hrun, he, rfl⟩
    · exact .inl hrun
    · exact .inr ⟨v, e, hrun, rfl, fun h => absurd h he⟩

/-- R190: a command that reports `OK` has reached its last line. -/
theorem body_of_replies_ok (h : exec i s = .next t) (hr : t.replies = s.replies ++ [.ok]) :
    ∃ u, body i s.accept = .go u ∧ t = u.close .ok := by
  rcases exec_ends h with hrun | ⟨u, e, hrun, rfl, hok⟩
  · exact absurd (hrun.replies.symm.trans hr) (by simp)
  · rw [State.close_replies, hrun.replies, State.accept_replies, List.append_cancel_left_eq, List.singleton_inj] at hr
    subst hr
    exact ⟨u, hok rfl, rfl⟩

/-- A driver register, or several, that the writes of a command leave alone is left alone by the command. -/
theorem exec_keeps_regs {α : Type} (f : AdRegs → McpRegs → α)
    (hw : ∀ t u, RegWrite i t u → f u.ad u.mcp = f t.ad t.mcp) (h : exec i s = .next t) :
    f t.ad t.mcp = f s.ad s.mcp := by
  have hP : Stable i fun _ t => f t.ad t.mcp = f s.ad s.mcp :=
    .of_onBus (fun t u ht h => (hw t u h).trans ht) (fun _ _ ht _ => ht) fun _ _ _ _ _ _ _ _ ht => ht
  rw [eq_finish_body_of_exec h]
  exact (hP.body (s := s.accept) rfl).finish (fun _ ht => ht) fun _ ht => ht

/-- Settles O48: a command writes a driver register only by a line of its rule, and the bus procedures add to the trace
alone. -/
theorem registersHaveTheirWriters : Obligations.RegistersHaveTheirWriters := by
  intro i s t h
  have hend : t.cfg = s.cfg ∧ t.cmds = s.cmds ∧ s.trace <+: t.trace ∧ s.replies <+: t.replies := by
    rcases exec_ends h with hrun | ⟨u, e, hrun, rfl, -⟩
    · exact ⟨hrun.cfg, hrun.cmds, hrun.trace, by rw [hrun.replies]; exact List.prefix_refl _⟩
    · exact ⟨hrun.cfg, hrun.cmds, hrun.trace, by rw [State.close_replies, hrun.replies]; exact List.prefix_append _ _⟩
  obtain ⟨hcfg, hcmds, htrace, hreplies⟩ := hend
  refine ⟨hcfg, hcmds, htrace, hreplies, fun _ _ => ?_, fun _ => ?_, fun _ _ _ => ?_, fun _ _ _ _ _ _ => ?_,
    fun _ _ => ?_, fun _ => ?_⟩
  · exact exec_keeps_regs (fun ad _ => ad.att) (fun _ _ hw => by cases hw <;> simp_all) h
  · exact exec_keeps_regs (fun ad _ => ad.cs) (fun _ _ hw => by cases hw <;> simp_all) h
  · exact exec_keeps_regs (fun ad _ => ad.rst) (fun _ _ hw => by cases hw <;> simp_all) h
  · exact exec_keeps_regs (fun ad _ => ad.ctrl) (fun _ _ hw => by cases hw <;> simp_all) h
  · exact exec_keeps_regs (fun _ mcp => mcp.att) (fun _ _ hw => by cases hw <;> simp_all) h
  · exact exec_keeps_regs (fun _ mcp => mcp.cs) (fun _ _ hw => by cases hw <;> simp_all) h

end Sys2Proof.Machine
end

section
/-! PROOFS. The state family, the invariant: the levels of a transfer, the legal images, and every step keeps `Inv`. -/

/-! ### What a configuration satisfies (R6, R27, R135) -/

namespace Sys2Proof

variable {cfg : Config}

theorem Config.linesDistinct_of_wf (h : cfg.wf = true) : cfg.linesDistinct = true := by
  simp only [Config.wf, Bool.and_eq_true] at h; tauto

theorem Config.ctrlWf_of_wf (h : cfg.wf = true) : cfg.ctrl.wf = true := by
  simp only [Config.wf, Bool.and_eq_true] at h; tauto

theorem Config.modesWf_of_wf (h : cfg.wf = true) : cfg.modesWf = true := by
  simp only [Config.wf, Bool.and_eq_true] at h; tauto

end Sys2Proof

namespace Sys2Proof.Machine

variable {cfg : Config} {s t : State} {i : Instr}

/-! ### Invariant (a) on the levels of a transfer -/

theorem noneLow_iff {l : Lines} : l.noneLow = true ↔ ∀ c, l.cs c = true := by
  constructor
  · intro h c
    obtain ⟨⟨h0, h1⟩, h2⟩ : (l.cs0 = true ∧ l.cs1 = true) ∧ l.cs2 = true := by simpa [Lines.noneLow] using h
    cases c with
    | cs0 => exact h0
    | cs1 => exact h1
    | cs2 => exact h2
  · intro h
    have h0 : l.cs0 = true := h .cs0
    have h1 : l.cs1 = true := h .cs1
    have h2 : l.cs2 = true := h .cs2
    simp [Lines.noneLow, h0, h1, h2]

/-- Where all chip-selects but one are high, at most that one is low. -/
theorem atMostOneLow_of_cs_ne {l : Lines} {c : Chan} (h : ∀ c', c' ≠ c → l.cs c' = true) :
    l.atMostOneLow = true := by
  cases c with
  | cs0 =>
    have h1 : l.cs1 = true := h .cs1 (by decide)
    have h2 : l.cs2 = true := h .cs2 (by decide)
    simp [Lines.atMostOneLow, h1, h2]
  | cs1 =>
    have h0 : l.cs0 = true := h .cs0 (by decide)
    have h2 : l.cs2 = true := h .cs2 (by decide)
    simp [Lines.atMostOneLow, h0, h2]
  | cs2 =>
    have h0 : l.cs0 = true := h .cs0 (by decide)
    have h1 : l.cs1 = true := h .cs1 (by decide)
    simp [Lines.atMostOneLow, h0, h1]

/-- R22: the adapter sees invariant (a) where the line registers have it. -/
theorem levelAtMostOneLow_pack (h : cfg.linesDistinct = true) (l : Lines) :
    levelAtMostOneLow cfg (pack cfg l) = l.atMostOneLow := by
  obtain ⟨h0, h1, h2, -⟩ := packBits cfg l h
  simp only [levelAtMostOneLow, Lines.atMostOneLow, h0, h1, h2]

theorem slotLevels_cs {p : Profile} {l m : Lines} {b : Bool} (h : m ∈ slotLevels p l b) (c : Chan) :
    m.cs c = l.cs c := by
  rw [slotLevels] at h
  split_ifs at h
  all_goals
    simp only [List.mem_cons, List.not_mem_nil, or_false] at h
    rcases h with rfl | rfl | rfl
  all_goals simp

/-- R104: the bit slots move no chip-select. -/
theorem slotsLevels_cs {p : Profile} (c : Chan) : ∀ (bs : List Bool) {l m : Lines}, m ∈ slotsLevels p l bs →
    m.cs c = l.cs c
  | b :: bs, l, m, h => by
    rcases List.mem_append.1 h with h | h
    · exact slotLevels_cs h c
    · simpa using slotsLevels_cs c bs h

/-- R104: a word moves no chip-select but its own. -/
theorem wordLevels_cs_ne {c c' : Chan} {p : Profile} {l m : Lines} {w : Word} (hc : c' ≠ c)
    (h : m ∈ wordLevels cfg c p l w) : m.cs c' = l.cs c' := by
  simp only [wordLevels, List.mem_append, List.mem_cons, List.not_mem_nil, or_false] at h
  rcases h with (rfl | h) | rfl | rfl
  · exact Lines.cs_setCs_ne l _ hc
  · rw [slotsLevels_cs c' _ h]; exact Lines.cs_setCs_ne l _ hc
  · simpa using Lines.cs_setCs_ne l _ hc
  · simpa [wordEnd] using Lines.cs_setCs_ne l _ hc

theorem wordEnd_cs_ne {c c' : Chan} {p : Profile} (l : Lines) (hc : c' ≠ c) :
    (wordEnd cfg c p l).cs c' = l.cs c' := by simpa [wordEnd] using Lines.cs_setCs_ne l true hc

/-- R107: a transfer moves no chip-select but its own. -/
theorem wordsLevels_cs_ne {c c' : Chan} {p : Profile} (hc : c' ≠ c) : ∀ (ws : List Word) {l m : Lines},
    m ∈ wordsLevels cfg c p l ws → m.cs c' = l.cs c'
  | w :: ws, l, m, h => by
    rcases List.mem_append.1 h with h | h
    · exact wordLevels_cs_ne hc h
    · rw [wordsLevels_cs_ne hc ws h, wordEnd_cs_ne l hc]

theorem wordsLevels_atMostOneLow {c : Chan} {p : Profile} {ws : List Word} {l m : Lines} (hl : l.noneLow = true)
    (h : m ∈ wordsLevels cfg c p l ws) : m.atMostOneLow = true :=
  atMostOneLow_of_cs_ne fun c' hc => (wordsLevels_cs_ne hc ws h).trans (noneLow_iff.1 hl c')

theorem wordEnd_noneLow {c : Chan} {p : Profile} {l : Lines} (hl : l.noneLow = true) :
    (wordEnd cfg c p l).noneLow = true := by
  refine noneLow_iff.2 fun c' => ?_
  by_cases hc : c' = c
  · rw [hc, wordEnd_cs]
  · rw [wordEnd_cs_ne l hc]; exact noneLow_iff.1 hl c'

/-! ### The legal images (R28) -/

theorem oneBit_and_oneBit {p q : Fin 16} (h : p ≠ q) : (1#16 <<< p.val) &&& (1#16 <<< q.val) = 0#16 := by
  ext j hj
  have hpq : p.val ≠ q.val := Fin.val_ne_of_ne h
  rw [← BitVec.twoPow_eq, ← BitVec.twoPow_eq, BitVec.getElem_and, BitVec.getElem_twoPow, BitVec.getElem_twoPow,
    BitVec.getElem_zero, Bool.and_eq_false_iff, decide_eq_false_iff_not, decide_eq_false_iff_not]
  omega

/-- R27, R137: the fields a command writes by themselves lie outside the mode field. -/
theorem ctrlBit_and_mask (h : cfg.wf = true) {f : CtrlField} (hf : f ∈ [CtrlField.b28, .fselect, .reset]) :
    ctrlBit cfg.ctrl f &&& cfg.modes.mask = 0#16 := by
  have hm := Config.modesWf_of_wf h
  simp only [Config.modesWf, Bool.and_eq_true, decide_eq_true_eq] at hm
  have hd := Config.ctrlWf_of_wf h
  simp only [CtrlLayout.wf, Bool.and_eq_true, decide_eq_true_eq, List.nodup_cons, List.mem_cons, List.not_mem_nil,
    or_false, not_or] at hd
  simp only [hm.2, BitVec.and_or_distrib_left, ctrlBit]
  simp only [List.mem_cons, List.not_mem_nil, or_false] at hf
  rcases hf with rfl | rfl | rfl <;> simp [ctrlPos, oneBit_and_oneBit, hd]

theorem ctrlBit_and_not_writable {f : CtrlField} (hf : f ∈ [CtrlField.b28, .fselect, .reset]) :
    ctrlBit cfg.ctrl f &&& ~~~(ctrlWritable cfg) = 0#16 := by
  simp only [List.mem_cons, List.not_mem_nil, or_false] at hf
  ext j hj
  rcases hf with rfl | rfl | rfl <;> simp +contextual [ctrlWritable]

/-- R27, R148: a field write leaves alone what lies outside the field. -/
theorem ctrlPut_and {l : CtrlLayout} {f : CtrlField} {m : Word} (h : ctrlBit l f &&& m = 0#16) (b : Bool) (v : Word) :
    ctrlPut l f b v &&& m = v &&& m := by
  ext j hj
  have hj' := congrArg (·[j]) h
  simp only [BitVec.getElem_and, BitVec.getElem_zero] at hj'
  cases b with
  | true =>
    simp only [ctrlPut, if_true, BitVec.getElem_and, BitVec.getElem_or]
    rw [Bool.and_or_distrib_right, hj', Bool.or_false]
  | false =>
    simp only [ctrlPut, Bool.false_eq_true, if_false, BitVec.getElem_and, BitVec.getElem_not]
    grind

theorem legalCtrl_ctrlPut (h : cfg.wf = true) {f : CtrlField} (hf : f ∈ [CtrlField.b28, .fselect, .reset]) (b : Bool)
    {v : Word} (hv : legalCtrl cfg v) : legalCtrl cfg (ctrlPut cfg.ctrl f b v) := by
  rwa [legalCtrl, ctrlPut_and (ctrlBit_and_not_writable hf), ctrlPut_and (ctrlBit_and_mask h hf)]

/-- R135: the pattern of a mode lies in the mode field. -/
theorem modeBits_and_mask (h : cfg.wf = true) (m : Mode) : modeBits cfg.modes m &&& cfg.modes.mask =
    modeBits cfg.modes m := by
  have hm := Config.modesWf_of_wf h
  simp only [Config.modesWf, Bool.and_eq_true, decide_eq_true_eq] at hm
  rw [hm.1]
  ext j hj
  cases m <;> simp +contextual [modeBits]

/-- R144: the mode field of the new image is the mode's pattern. -/
theorem ctrlWithMode_and_mask (h : cfg.wf = true) (m : Mode) (v : Word) :
    ctrlWithMode cfg.modes m v &&& cfg.modes.mask = modeBits cfg.modes m := by
  rw [ctrlWithMode, BitVec.and_or_distrib_right, modeBits_and_mask h]
  ext j hj
  simp

/-- R144: the new image sets no bit outside the mode field that was not set. -/
theorem ctrlWithMode_and_not_writable (h : cfg.wf = true) (m : Mode) {v : Word}
    (hv : v &&& ~~~(ctrlWritable cfg) = 0#16) : ctrlWithMode cfg.modes m v &&& ~~~(ctrlWritable cfg) = 0#16 := by
  ext j hj
  have hvj := congrArg (·[j]) hv
  have hmj := congrArg (·[j]) (modeBits_and_mask h m)
  simp only [ctrlWithMode, ctrlWritable, BitVec.getElem_and, BitVec.getElem_or, BitVec.getElem_not,
    BitVec.getElem_zero] at hvj hmj ⊢
  grind

theorem legalCtrl_ctrlWithMode (h : cfg.wf = true) (m : Mode) {v : Word} (hv : legalCtrl cfg v) :
    legalCtrl cfg (ctrlWithMode cfg.modes m v) :=
  ⟨ctrlWithMode_and_not_writable h m hv.1, m, ctrlWithMode_and_mask h m v⟩

/-! ### The invariant in the course of a command -/

/-- What `Inv` asks does not depend on the status, and while busy it asks less. -/
theorem Inv.close (h : Inv (s.close .ok)) (e : Status) : Inv (s.close e) :=
  ⟨h.cfg_wf, h.one_low, h.lines_idle, h.unattached, h.ctrl_legal, h.bitcnt_le, h.trace_one_low⟩

theorem Inv.of_busy (h : Inv (s.close .ok)) (hb : s.busy = true) : Inv s :=
  ⟨h.cfg_wf, h.one_low, fun hf => absurd (hb.symm.trans hf) (by decide), h.unattached, h.ctrl_legal, h.bitcnt_le,
    h.trace_one_low⟩

/-- The invariant where a command is: while it goes on, the block is busy and would meet the invariant if the command
ended there. -/
def InvAt (b : Bool) (t : State) : Prop := if b then t.busy = true ∧ Inv (t.close .ok) else Inv t

theorem Inv.accept (h : Inv s) (hb : s.busy = false) : InvAt true s.accept :=
  ⟨rfl, h.cfg_wf, h.one_low, fun _ => h.lines_idle hb, h.unattached, h.ctrl_legal, h.bitcnt_le, h.trace_one_low⟩

/-- R28, R38: the register writes of a command keep the invariant: an image that a command writes is legal, and is
written only with the driver attached. -/
theorem RegWrite.invAt (hw : RegWrite i s t) (h : InvAt true s) : InvAt true t := by
  obtain ⟨hb, h⟩ := h
  have hput : ∀ f ∈ [CtrlField.b28, .fselect, .reset], ∀ b, s.ad.att = true → InvAt true (putCtrl f b s) :=
    fun f hf b ha => ⟨hb, h.cfg_wf, h.one_low, h.lines_idle, fun h0 => absurd (ha.symm.trans h0) (by decide),
      legalCtrl_ctrlPut h.cfg_wf hf b h.ctrl_legal, h.bitcnt_le, h.trace_one_low⟩
  cases hw with
  | adAttach => exact ⟨hb, h.cfg_wf, h.one_low, h.lines_idle, nofun, h.ctrl_legal, h.bitcnt_le, h.trace_one_low⟩
  | adDetach =>
    exact ⟨hb, h.cfg_wf, h.one_low, h.lines_idle, fun _ => ⟨rfl, rfl⟩, legalCtrl_zero _, h.bitcnt_le, h.trace_one_low⟩
  | b28 _ ha => exact hput .b28 (by decide) true ha
  | reset _ _ b _ ha => exact hput .reset (by decide) b ha
  | fselect _ _ b ha => exact hput .fselect (by decide) b ha
  | rst _ _ b _ ha =>
    exact ⟨hb, h.cfg_wf, h.one_low, h.lines_idle, fun h0 => absurd (ha.symm.trans h0) (by decide), h.ctrl_legal,
      h.bitcnt_le, h.trace_one_low⟩
  | mode _ _ m _ ha =>
    exact ⟨hb, h.cfg_wf, h.one_low, h.lines_idle, fun h0 => absurd (ha.symm.trans h0) (by decide),
      legalCtrl_ctrlWithMode h.cfg_wf m h.ctrl_legal, h.bitcnt_le, h.trace_one_low⟩
  | adCs | mcpAttach | mcpDetach | mcpCs =>
    exact ⟨hb, h.cfg_wf, h.one_low, h.lines_idle, h.unattached, h.ctrl_legal, h.bitcnt_le, h.trace_one_low⟩

theorem eventStates_append (es es' : List Event) : eventStates (es ++ es') = eventStates es ++ eventStates es' :=
  List.filterMap_append

/-- The bus procedures keep the invariant if the lines they leave and the requests they add have at most one chip-select
low, `BITCNT` stays in range, and on a good bus between commands the lines are idle. -/
theorem Inv.onBus (h : Inv s) {l : Lines} {es : List Event} {b : Bool} {sh : Shifter} (as : List Answer)
    (ws : List Wait) (hl : l.atMostOneLow = true) (hes : ∀ st ∈ eventStates es, levelAtMostOneLow s.cfg st = true)
    (hsh : sh.bitcnt.toNat ≤ 16)
    (hidle : s.busy = false → b = true → l.noneLow = true ∧ l.sdo = s.cfg.sdoIdle) :
    Inv (s.onBus l es b sh as ws) where
  cfg_wf := h.cfg_wf
  one_low := hl
  lines_idle := hidle
  unattached := h.unattached
  ctrl_legal := h.ctrl_legal
  bitcnt_le := hsh
  trace_one_low := by
    intro st hst
    rw [State.onBus_trace, eventStates_append] at hst
    exact (List.mem_append.1 hst).elim (h.trace_one_low st) (hes st)

/-- Invariant (a) at the requests that send levels which have it. -/
theorem eventStates_levels_oneLow (h : cfg.wf = true) {ls : List Lines} (hls : ∀ l ∈ ls, l.atMostOneLow = true) :
    ∀ st ∈ eventStates (levelsEvents cfg ls), levelAtMostOneLow cfg st = true := by
  intro st hst
  rw [eventStates_levelsEvents] at hst
  obtain ⟨l, hl, rfl⟩ := List.mem_map.1 hst
  rw [levelAtMostOneLow_pack (Config.linesDistinct_of_wf h)]
  exact hls l hl

/-- The same where the last request has no delay after it. -/
theorem eventStates_request_oneLow (h : cfg.wf = true) {ls : List Lines} {k : Nat} {l : Lines} (hk : ls[k]? = some l)
    (hls : ∀ l ∈ ls, l.atMostOneLow = true) :
    ∀ st ∈ eventStates (levelsEvents cfg (ls.take k) ++ [drvOf cfg l]), levelAtMostOneLow cfg st = true := by
  intro st hst
  rw [eventStates_append] at hst
  rcases List.mem_append.1 hst with hst | hst
  · exact eventStates_levels_oneLow h (fun m hm => hls m (List.mem_of_mem_take hm)) st hst
  · obtain rfl : st = pack cfg l := by simpa [eventStates, drvOf] using hst
    rw [levelAtMostOneLow_pack (Config.linesDistinct_of_wf h)]
    exact hls l (List.mem_of_getElem? hk)

theorem transfer_invAt {ws : List Word} (c : Chan) (p : Profile) (hne : ws ≠ []) (h : InvAt true s) :
    (transfer ws c p s).Holds InvAt := by
  obtain ⟨hbusy, h⟩ := h
  cases hbus : s.busOk with
  | false => rw [transfer_busOk_false _ _ _ hbus]; exact h.close .gpioFault
  | true =>
    obtain ⟨hnone, hsdo⟩ := h.lines_idle rfl hbus
    have hlow : ∀ l ∈ wordsLevels s.cfg c p s.lines ws, l.atMostOneLow = true := fun l hl =>
      wordsLevels_atMostOneLow hnone hl
    have hends := transfer_ends ws c p hbus
    have hcnt := transfer_bitcnt ws c p s h.bitcnt_le
    generalize transfer ws c p s = r at hends hcnt
    cases hends with
    | sent sh as ws' _ _ =>
      rw [wordsLevels_last _ _ _ _ _ _ hne] at hcnt ⊢
      have hend : (wordEnd s.cfg c p s.lines).noneLow = true := wordEnd_noneLow hnone
      exact ⟨hbusy, h.onBus as ws' (atMostOneLow_of_cs_ne (c := c) fun c' _ => noneLow_iff.1 hend c')
        (eventStates_levels_oneLow h.cfg_wf hlow) hcnt fun _ _ => ⟨hend, rfl⟩⟩
    | failed k l sh as ws' hk =>
      exact (h.close .gpioFault).onBus as ws' (hlow l (List.mem_of_getElem? hk))
        (eventStates_request_oneLow h.cfg_wf hk hlow) hcnt nofun
    | unanswered k l sh as ws' hk _ =>
      exact (h.of_busy hbusy).onBus as ws' (hlow l (List.mem_of_getElem? hk))
        (eventStates_request_oneLow h.cfg_wf hk hlow) hcnt fun hf => absurd (hbusy.symm.trans hf) (by decide)
    | waiting k l sh as ws' hk _ =>
      exact (h.of_busy hbusy).onBus as ws' (hlow l (List.mem_of_getElem? hk))
        (eventStates_levels_oneLow h.cfg_wf fun m hm => hlow m (List.mem_of_mem_take hm)) hcnt
        fun hf => absurd (hbusy.symm.trans hf) (by decide)

theorem cfgIdleProc_invAt (p : Profile) (h : InvAt true s) : (cfgIdleProc p s).Holds InvAt := by
  obtain ⟨hbusy, h⟩ := h
  have hlow : ∀ st ∈ [pack s.cfg (Lines.idle s.cfg p.cpol)], levelAtMostOneLow s.cfg st = true := by
    intro st hst
    rw [List.mem_singleton.1 hst, levelAtMostOneLow_pack (Config.linesDistinct_of_wf (cfg := s.cfg) h.cfg_wf)]
    rfl
  have hbusy' : s.busy = false → ∀ {q : Prop}, q := fun hf => absurd (hbusy.symm.trans hf) (by decide)
  rcases cfgIdleProc_ends p s with ⟨as, ws, hr⟩ | ⟨as, ws, hr⟩ | ⟨as, ws, hr, -⟩ | ⟨as, ws, hr, -⟩
  · rw [hr]; exact ⟨hbusy, h.onBus as ws rfl hlow h.bitcnt_le fun _ _ => ⟨rfl, rfl⟩⟩
  · rw [hr]; exact (h.close .gpioFault).onBus as ws rfl hlow h.bitcnt_le nofun
  · rw [hr]; exact (h.of_busy hbusy).onBus as ws rfl hlow h.bitcnt_le fun hf => hbusy' hf
  · rw [hr]; exact (h.of_busy hbusy).onBus as ws rfl hlow h.bitcnt_le fun hf => hbusy' hf

theorem delay_invAt (n : Nat) (h : InvAt true s) : (delay n s).Holds InvAt := by
  obtain ⟨hbusy, h⟩ := h
  rcases delay_ends n s with ⟨ws, hr, -⟩ | ⟨ws, hr, -⟩
  · rw [hr]; exact ⟨hbusy, h.onBus _ ws h.one_low nofun h.bitcnt_le h.lines_idle⟩
  · rw [hr]
    exact (h.of_busy hbusy).onBus _ ws h.one_low nofun h.bitcnt_le fun hf => absurd (hbusy.symm.trans hf) (by decide)

theorem stable_invAt : Stable i InvAt where
  write _ _ h hw := hw.invAt h
  reject _ e h _ _ := h.2.close e
  transfer _ c p _ hne h := transfer_invAt c p hne h
  cfgIdle p _ h := cfgIdleProc_invAt p h
  delay n _ h := delay_invAt n h

theorem exec_keeps_inv (h : Inv s) (hb : s.busy = false) (ht : exec i s = .next t) : Inv t := by
  rw [eq_finish_body_of_exec ht]
  exact (stable_invAt.body (h.accept hb)).finish (fun _ hu => hu.2) fun _ hu => hu

/-- R51, R212: what a step that answers a next state has done. -/
theorem step_cases (h : step s = .next t) :
    t = s ∨ s.busy = false ∧ ∃ rest, t = (s.setCmds rest).close .illegalCommand ∨
      ∃ i, exec i (s.setCmds rest) = .next t := by
  rw [step, fetch] at h
  cases hb : s.busy with
  | true => rw [hb] at h; exact .inl (Host.Outcome.next.inj h).symm
  | false =>
    rw [hb] at h
    cases hc : s.cmds with
    | nil => rw [hc] at h; exact .inl (Host.Outcome.next.inj h).symm
    | cons w rest =>
      refine .inr ⟨rfl, rest, ?_⟩
      simp only [hc, Bool.false_eq_true, if_false] at h
      cases hd : decode w with
      | error e => rw [hd] at h; exact .inl (Host.Outcome.next.inj h).symm
      | ok i => rw [hd] at h; exact .inr ⟨i, h⟩

theorem Inv.setCmds (h : Inv s) (cs : List Cmd) : Inv (s.setCmds cs) :=
  ⟨h.cfg_wf, h.one_low, h.lines_idle, h.unattached, h.ctrl_legal, h.bitcnt_le, h.trace_one_low⟩

/-- Settles O47: the lines of every command keep the invariant wherever the command is, up to the end. -/
theorem stepKeepsInv : Obligations.StepKeepsInv := by
  intro s t h hstep
  rcases step_cases hstep with rfl | ⟨hb, rest, rfl | ⟨i, hi⟩⟩
  · exact h
  · exact ((h.setCmds rest).accept hb).2.close .illegalCommand
  · exact exec_keeps_inv (h.setCmds rest) hb hi

end Sys2Proof.Machine
end

section
/-! PROOFS. The state family, how commands end: the clock's idle level, the state machine of the AD9833 driver, the hold
of AD.RESET, and the pins. -/

namespace Sys2Proof.Machine

variable {s t u : State} {i : Instr}

/-! ### The clock after a command (R38, R104, R106) -/

theorem Run.andThen_eq_go {r : Run} {f : State → Run} : r.andThen f = .go u ↔ ∃ t, r = .go t ∧ f t = .go u := by
  cases r <;> simp

theorem require_eq_go {c : Bool} {e : Status} : require c e s = .go t ↔ c = true ∧ s = t := by
  cases c <;> simp [raise]

theorem BusEnds.go_cfg (h : BusEnds s (.go t)) : t.cfg = s.cfg := BusFrame.cfg h.frame

/-- R104: a transfer that went on has left the clock at the idle level of its profile. -/
theorem transfer_go_sck {ws : List Word} {c : Chan} {p : Profile} (hne : ws ≠ []) (h : transfer ws c p s = .go t) :
    t.lines.sck = p.cpol := by
  cases hb : s.busOk with
  | false => rw [transfer_busOk_false _ _ _ hb] at h; cases h
  | true =>
    have hends := transfer_ends ws c p hb
    rw [h] at hends
    cases hends
    rw [State.onBus_lines, wordsLevels_last _ _ _ _ _ _ hne]
    rfl

theorem writeReg_go_sck (h : writeReg s = .go t) : t.lines.sck = s.cfg.adProfile.cpol := transfer_go_sck (by simp) h

theorem writeReg_go_cfg (h : writeReg s = .go t) : t.cfg = s.cfg :=
  (h ▸ transfer_busEnds _ _ _ s : BusEnds s _).go_cfg

theorem resetSeq_go_sck (h : resetSeq s = .go t) : t.lines.sck = s.cfg.adProfile.cpol := by
  simp only [resetSeq, Run.andThen_eq_go] at h
  obtain ⟨a, ha, b, hb, d, hd, h⟩ := h
  cases h
  have hab : a.cfg = s.cfg := writeReg_go_cfg (s := putCtrl .reset true s) ha
  have hbd : b.cfg = a.cfg := (hb ▸ delay_busEnds _ (a.setAdRst true) : BusEnds (a.setAdRst true) _).go_cfg
  have hsck : d.lines.sck = b.cfg.adProfile.cpol := writeReg_go_sck (s := putCtrl .reset false b) hd
  rwa [hbd, hab] at hsck

/-- R106: an idle configuration that went on has left the clock at the idle level of its profile. -/
theorem cfgIdleProc_go_sck {p : Profile} (h : cfgIdleProc p s = .go t) : t.lines.sck = p.cpol := by
  rcases cfgIdleProc_ends p s with ⟨_, _, hr⟩ | ⟨_, _, hr⟩ | ⟨_, _, hr, -⟩ | ⟨_, _, hr, -⟩
  · cases hr.symm.trans h; rfl
  · cases hr.symm.trans h
  · cases hr.symm.trans h
  · cases hr.symm.trans h

theorem setModeProc_go_sck {m : Mode} (h : setModeProc m s = .go t) : t.lines.sck = s.cfg.adProfile.cpol := by
  simp only [setModeProc, requireAd, Run.andThen_eq_go, require_eq_go] at h
  obtain ⟨_, ⟨-, rfl⟩, h⟩ := h
  have hsck := writeReg_go_sck h
  exact hsck

/-- Settles O50: a command that reports `OK` has reached its last line, after its last transfer. -/
theorem clockIdlesAtLastProfile : Obligations.ClockIdlesAtLastProfile := by
  intro i s t h hr
  obtain ⟨u, hu, rfl⟩ := body_of_replies_ok h hr
  rw [State.close_lines]
  cases i with
  | cfgIdle p => exact cfgIdleProc_go_sck hu
  | xfer c p ws =>
    rw [body] at hu
    split_ifs at hu with hl
    · exact transfer_go_sck (sentWords_ne_nil hl) hu
    · cases hu
  | adAttach =>
    obtain ⟨v, hv, hvu⟩ := Run.andThen_eq_go.1 hu
    cases hvu
    exact cfgIdleProc_go_sck (s := s.accept) (t := v) hv
  | mcpAttach =>
    obtain ⟨v, hv, hvu⟩ := Run.andThen_eq_go.1 hu
    cases hvu
    exact cfgIdleProc_go_sck (s := s.accept) (t := v) hv
  | adBegin =>
    simp only [body, requireAd, Run.andThen_eq_go, require_eq_go] at hu
    obtain ⟨_, ⟨-, rfl⟩, v, hv, hu⟩ := hu
    have hsck := resetSeq_go_sck hu
    rwa [writeReg_go_cfg hv] at hsck
  | adReset =>
    simp only [body, requireAd, Run.andThen_eq_go, require_eq_go] at hu
    obtain ⟨_, ⟨-, rfl⟩, hu⟩ := hu
    exact resetSeq_go_sck (s := s.accept) hu
  | adSetFreq ch f =>
    simp only [body, setFreqProc, requireAd, Run.andThen_eq_go, require_eq_go] at hu
    obtain ⟨_, ⟨-, rfl⟩, _, ⟨-, rfl⟩, hu⟩ := hu
    exact transfer_go_sck (by simp [freqWords]) hu
  | adSetAct ch =>
    simp only [body, requireAd, Run.andThen_eq_go, require_eq_go] at hu
    obtain ⟨_, ⟨-, rfl⟩, _, ⟨-, rfl⟩, hu⟩ := hu
    exact writeReg_go_sck (s := putCtrl _ _ s.accept) hu
  | adSetMode m => exact setModeProc_go_sck (s := s.accept) hu
  | adShutdown => exact setModeProc_go_sck (s := s.accept) hu
  | mcpWrite imm =>
    simp only [body, requireMcp, Run.andThen_eq_go, require_eq_go] at hu
    obtain ⟨_, ⟨-, rfl⟩, hu⟩ := hu
    exact transfer_go_sck (by simp) hu
  | adDetach => cases hu; rfl
  | adSetCs imm => cases hu; rfl
  | mcpDetach => cases hu; rfl
  | mcpSetCs imm => cases hu; rfl

/-! ### The state machine of the AD9833 driver (R33, R205) -/

theorem adState_eq_unattached : adState s = .unattached ↔ s.ad.att = false := by
  cases ha : s.ad.att <;> cases hr : s.ad.rst <;> simp [adState, ha, hr]

theorem adState_of_att (h : s.ad.att = true) : adState s = if s.ad.rst then .resetting else .idle := by
  rw [adState, if_pos h]

theorem adState_congr (ha : t.ad.att = s.ad.att) (hr : t.ad.rst = s.ad.rst) : adState t = adState s := by
  rw [adState, adState, ha, hr]

theorem countDrv_append (es es' : List Event) : countDrv (es ++ es') = countDrv es + countDrv es' :=
  List.countP_append

/-- R102: every level sent is one write. -/
theorem countDrv_levelsEvents (cfg : Config) : ∀ ls : List Lines, countDrv (levelsEvents cfg ls) = ls.length
  | [] => rfl
  | l :: ls => by
    have h : levelsEvents cfg (l :: ls) = levelEvents cfg l ++ levelsEvents cfg ls := rfl
    rw [h, countDrv_append, countDrv_levelsEvents cfg ls, List.length_cons, Nat.add_comm]
    rfl

theorem countDrv_drvOf (cfg : Config) (l : Lines) : countDrv [drvOf cfg l] = 1 := rfl

/-- How a write of the control image, begun busy in `s`, ends, by the number of writes in the trace. -/
inductive WriteEnds (s : State) : Bool → State → Prop
  | done (t : State) (had : t.ad = s.ad) (hbusy : t.busy = true) (hbus : t.busOk = true)
      (hn : countDrv t.trace = countDrv s.trace + 51) : WriteEnds s true t
  | stopped (t : State) (had : t.ad = s.ad) (hst : t.busy = false → t.status = .gpioFault)
      (hle : countDrv t.trace ≤ countDrv s.trace + 51)
      (hlt : s.busOk = true → countDrv s.trace < countDrv t.trace) : WriteEnds s false t

theorem writeReg_writeEnds (hbusy : s.busy = true) : (writeReg s).Holds (WriteEnds s) := by
  cases hb : s.busOk with
  | false =>
    rw [writeReg_busOk_false hb]
    exact .stopped _ rfl (fun _ => rfl) (by simp) fun h => absurd (hb.symm.trans h) (by decide)
  | true =>
    have hlen : (ctrlLevels s).length = 51 := by simp [ctrlLevels, wordsLevels_length]
    have hk : ∀ {k l}, (ctrlLevels s)[k]? = some l → k < 51 := fun h => hlen ▸ (List.getElem?_eq_some_iff.1 h).1
    have hbusy' : s.busy = false → s.status = .gpioFault := fun hf => absurd (hbusy.symm.trans hf) (by decide)
    have hends := writeReg_ends hb
    generalize writeReg s = r at hends
    cases hends with
    | sent sh as ws _ _ =>
      exact .done _ rfl hbusy hb (by rw [State.onBus_trace, countDrv_append, countDrv_levelsEvents, hlen])
    | failed k l sh as ws h =>
      have hn := hk h
      refine .stopped _ rfl (fun _ => rfl) ?_ fun _ => ?_ <;>
      simp only [State.close_trace, State.onBus_trace, countDrv_append, countDrv_levelsEvents, countDrv_drvOf,
        List.length_take] <;> omega
    | unanswered k l sh as ws h _ =>
      have hn := hk h
      refine .stopped _ rfl hbusy' ?_ fun _ => ?_ <;>
      simp only [State.onBus_trace, countDrv_append, countDrv_levelsEvents, countDrv_drvOf, List.length_take] <;> omega
    | waiting k l sh as ws h _ =>
      have hn := hk h
      refine .stopped _ rfl hbusy' ?_ fun _ => ?_ <;>
      simp only [State.onBus_trace, countDrv_append, countDrv_levelsEvents, List.length_take] <;> omega

/-- How the lines of AD.BEGIN and AD.RESET, begun busy in `s` with the driver attached, end, where the first reset write
ends with write `n`: done, in the hold for ever, or stopped up to the first reset write or after it. -/
inductive ResetWrites (s : State) (n : Nat) : Bool → State → Prop
  | done (t : State) (ha : t.ad.att = s.ad.att) (hr : t.ad.rst = false) : ResetWrites s n true t
  | never (t : State) (hb : t.busy = true) : ResetWrites s n false t
  | before (t : State) (ha : t.ad.att = s.ad.att) (hr : t.ad.rst = s.ad.rst)
      (hst : t.busy = false → t.status = .gpioFault) (hn : countDrv t.trace ≤ countDrv s.trace + n) :
      ResetWrites s n false t
  | later (t : State) (ha : t.ad.att = s.ad.att) (hr : t.ad.rst = true)
      (hst : t.busy = false → t.status = .gpioFault) (hn : countDrv s.trace + n < countDrv t.trace) :
      ResetWrites s n false t

/-- R137, R146: `AD_RST` is written after the first reset write and after the second. -/
theorem resetSeq_resetWrites (hbusy : s.busy = true) : (resetSeq s).Holds (ResetWrites s 51) := by
  refine (writeReg_writeEnds (s := putCtrl .reset true s) hbusy).andThen (fun a ha => ?_) fun a ha => ?_
  · cases ha with
    | done _ had hba hok hn =>
      rcases delay_ends a.cfg.tResetUs (a.setAdRst true) with ⟨ws, hd, -⟩ | ⟨ws, hd, -⟩
      · rw [hd, Run.go_andThen]
        have hcnt : countDrv (a.trace ++ [.dly a.cfg.tResetUs]) = countDrv s.trace + 51 := by
          rw [countDrv_append, hn]; rfl
        refine (writeReg_writeEnds (by exact hba)).andThen (fun b hb => ?_) fun b hb => ?_
        · cases hb with
          | done _ had' _ _ _ =>
            exact .done _ (by simp [had', had]) rfl
        · cases hb with
          | stopped _ had' hst _ hlt =>
            have hlt := hlt hok
            exact .later _ (by simp [had', had]) (by simp [had']) hst (lt_of_eq_of_lt hcnt.symm hlt)
      · rw [hd, Run.stop_andThen]; exact .never _ hba
  · cases ha with
    | stopped _ had hst hle _ => exact .before _ (by simp [had]) (by simp [had]) hst hle

/-- R140: AD.BEGIN sends one word more before the same sequence. -/
theorem begin_resetWrites (hbusy : s.busy = true) :
    ((writeReg (putCtrl .b28 true s)).andThen resetSeq).Holds (ResetWrites s 102) := by
  refine (writeReg_writeEnds (s := putCtrl .b28 true s) hbusy).andThen (fun a ha => ?_) fun a ha => ?_
  · cases ha with
    | done _ had hba _ hn =>
      have hatt : a.ad.att = s.ad.att := by simp [had]
      have hrst : a.ad.rst = s.ad.rst := by simp [had]
      have hcnt : countDrv a.trace = countDrv s.trace + 51 := hn
      refine (resetSeq_resetWrites hba).mono fun b t ht => ?_
      cases ht with
      | done _ ha hr => exact .done _ (ha.trans hatt) hr
      | never _ hb => exact .never _ hb
      | before _ ha hr hst hle => exact .before _ (ha.trans hatt) (hr.trans hrst) hst (by omega)
      | later _ ha hr hst hlt => exact .later _ (ha.trans hatt) hr hst (by omega)
  · cases ha with
    | stopped _ had hst hle _ =>
      exact .before _ (by simp [had]) (by simp [had]) hst (hle.trans (Nat.add_le_add_left (by decide) _))

/-- R205, the rows of AD.BEGIN and AD.RESET, whose first reset write ends with write `writes`. -/
def AfterReset (s t : State) (es : List Event) (writes : Nat) : Prop :=
  (adState s = .unattached → adState t = .unattached ∧ t.status = .deviceNotAttached) ∧
  (adState s ≠ .unattached → t.status = .ok ∨ t.status = .gpioFault) ∧
  (t.status = .ok → adState t = .idle) ∧
  (t.status = .gpioFault → adState s = .resetting → adState t = .resetting) ∧
  (t.status = .gpioFault → adState s = .idle → adState t = if countDrv es ≤ writes then .idle else .resetting)

theorem afterReset_unattached {es : List Event} {n : Nat} (ha : s.ad.att = false)
    (ht : t = s.accept.close .deviceNotAttached) : AfterReset s t es n := by
  subst ht
  have hs : adState s = .unattached := adState_eq_unattached.2 ha
  exact ⟨fun _ => ⟨hs, rfl⟩, fun h => absurd hs h, nofun, nofun, nofun⟩

theorem afterReset_attached {es : List Event} {n : Nat} {r : Run} (ha : s.ad.att = true)
    (hr : r.Holds (ResetWrites s.accept n)) (ht : t = r.finish) (hbusy : t.busy = false)
    (htr : t.trace = s.trace ++ es) : AfterReset s t es n := by
  have hne : adState s ≠ .unattached := fun h => by simp [adState_eq_unattached.1 h] at ha
  have hcnt : countDrv t.trace = countDrv s.trace + countDrv es := by rw [htr, countDrv_append]
  subst ht
  cases r with
  | go u =>
    cases hr with
    | done _ hu hrst =>
      have hidle : adState (u.close .ok) = .idle := by
        rw [adState_of_att (s := u.close .ok) (hu.trans ha), State.close_ad, hrst]; rfl
      exact ⟨fun h => absurd h hne, fun _ => .inl rfl, fun _ => hidle, nofun, nofun⟩
  | stop u =>
    simp only [Run.finish_stop] at hbusy hcnt ⊢
    cases hr with
    | never _ hb => exact absurd (hb.symm.trans hbusy) (by decide)
    | before _ hu hrst hst hn =>
      have hsame : adState u = adState s := adState_congr hu hrst
      have hle : countDrv es ≤ n := by rw [State.accept_trace] at hn; omega
      have hok := hst hbusy
      refine ⟨fun h => absurd h hne, fun _ => .inr hok, fun h => ?_, fun _ h => hsame.trans h, fun _ h => ?_⟩
      · rw [hok] at h; cases h
      · rw [if_pos hle]; exact hsame.trans h
    | later _ hu hrst hst hn =>
      have hres : adState u = .resetting := by rw [adState_of_att (hu.trans ha), if_pos hrst]
      have hgt : ¬ countDrv es ≤ n := by rw [State.accept_trace] at hn; omega
      have hok := hst hbusy
      refine ⟨fun h => absurd h hne, fun _ => .inr hok, fun h => ?_, fun _ _ => hres, fun _ _ => ?_⟩
      · rw [hok] at h; cases h
      · rw [if_neg hgt]; exact hres

/-- R205: AD.BEGIN and AD.RESET, whose lines are the attach check and then `f`. -/
theorem afterReset_of_exec {es : List Event} {n : Nat} {f : State → Run}
    (hbody : body i s.accept = (requireAd s.accept).andThen f) (hf : (f s.accept).Holds (ResetWrites s.accept n))
    (h : exec i s = .next t) (hbusy : t.busy = false) (htr : t.trace = s.trace ++ es) : AfterReset s t es n := by
  have ht := eq_finish_body_of_exec h
  rw [hbody, requireAd, State.accept_ad] at ht
  cases ha : s.ad.att with
  | false => rw [ha] at ht; exact afterReset_unattached ha ht
  | true => rw [ha] at ht; exact afterReset_attached ha hf ht hbusy htr

/-- R205: AD.ATTACH sets the attach flag where its configuration is accepted, and changes nothing of the driver else. -/
theorem adAttach_ad (h : exec .adAttach s = .next t) (hbusy : t.busy = false) :
    t.status = .ok ∧ t.ad = { s.ad with att := true } ∨ t.status = .gpioFault ∧ t.ad = s.ad := by
  have ht := eq_finish_body_of_exec h
  rw [body] at ht
  rcases cfgIdleProc_ends s.accept.cfg.adProfile s.accept with ⟨_, _, hr⟩ | ⟨_, _, hr⟩ | ⟨_, _, hr, -⟩ | ⟨_, _, hr, -⟩
  · rw [hr] at ht; subst ht; exact .inl ⟨rfl, rfl⟩
  · rw [hr] at ht; subst ht; exact .inr ⟨rfl, rfl⟩
  · rw [hr] at ht; subst ht; cases hbusy
  · rw [hr] at ht; subst ht; cases hbusy

/-- R205: a command that writes neither `AD_ATT` nor `AD_RST` keeps the state. -/
theorem adState_of_exec (h : exec i s = .next t) (ha : i ≠ .adAttach) (hd : i ≠ .adDetach) (hb : i ≠ .adBegin)
    (hr : i ≠ .adReset) : adState t = adState s := by
  obtain ⟨-, -, -, -, hatt, -, hrst, -⟩ := registersHaveTheirWriters i s t h
  exact adState_congr (hatt ha hd) (hrst hb hr hd)

/-- Settles O36: `AD_ATT` and `AD_RST` follow the end of a command, and of a reset sequence the number of its writes. -/
theorem adStateMachine : Obligations.AdStateMachine := by
  intro i s t es hinv h hbusy htr
  cases i with
  | adAttach =>
    rcases adAttach_ad h hbusy with ⟨hst, had⟩ | ⟨hst, had⟩
    · refine ⟨fun _ => ?_, fun hf => absurd (hst.symm.trans hf) (by decide)⟩
      have hrst : t.ad.rst = s.ad.rst := by rw [had]
      rw [adState_of_att (by rw [had]), hrst]
      cases ha : s.ad.att with
      | false =>
        rw [adState_eq_unattached.2 ha, (hinv.unattached ha).2]; rfl
      | true => rw [adState_of_att ha]; cases s.ad.rst <;> rfl
    · exact ⟨fun hf => absurd (hst.symm.trans hf) (by decide), fun _ => adState_congr (by rw [had]) (by rw [had])⟩
  | adDetach =>
    have ht : t = _ := eq_finish_body_of_exec h
    subst ht; rfl
  | adBegin =>
    exact afterReset_of_exec (f := fun t => (writeReg (putCtrl .b28 true t)).andThen resetSeq) rfl
      (begin_resetWrites rfl) h hbusy htr
  | adReset => exact afterReset_of_exec rfl (resetSeq_resetWrites rfl) h hbusy htr
  | _ => exact adState_of_exec h (by simp) (by simp) (by simp) (by simp)

/-! ### The hold of AD.RESET (R26, R32, R35) -/

/-- R51: a busy block takes no command. -/
theorem step_of_busy (h : s.busy = true) : step s = .next s := by simp [step, fetch, h]

theorem delay_never (n : Nat) (h : s.waits.head? = some .never) :
    delay n s = .stop ((s.log (.dly n)).setWaits s.waits.tail) := by
  obtain ⟨ws, hw⟩ := List.head?_eq_some_iff.1 h
  simp only [delay, hw, List.tail_cons]

/-- R137, U9: a reset sequence whose hold does not end stays in it. -/
theorem resetSeq_hold (hb : s.busOk = true) (hp : s.portsReady 51 51) (hw : s.waits[51]? = some .never) :
    ∃ u, resetSeq s = .stop u ∧ u.busy = s.busy ∧ u.ad.att = s.ad.att ∧ u.ad.rst = true ∧ u.replies = s.replies ∧
      u.trace.getLast? = some (.dly s.cfg.tResetUs) := by
  have hdrop : (s.waits.drop 51).head? = some .never := by rw [List.head?_drop]; exact hw
  have hwaits : ((putCtrl .reset true s).sent (putCtrl .reset true s).ad.cs s.cfg.adProfile
      [(putCtrl .reset true s).ad.ctrl]).waits = s.waits.drop 51 := by
    simp [State.sent, putCtrl, wordsLevels_length]
  rw [resetSeq, writeReg_ready (s := putCtrl .reset true s) hb hp, Run.go_andThen,
    delay_never _ (by rw [State.setAdRst_waits]; exact hwaits ▸ hdrop), Run.stop_andThen]
  exact ⟨_, rfl, rfl, rfl, rfl, rfl, List.getLast?_concat⟩

/-- Settles O54: the hold comes with `AD_RST = 1`, and a busy block takes no command. -/
theorem hostSeesResetting : Obligations.HostSeesResetting := by
  intro s ha hb hp hw
  obtain ⟨u, hu, hbusy, hatt, hrst, hrep, hlast⟩ := resetSeq_hold (s := s.accept) hb hp hw
  have hexec : exec .adReset s = .next u := by
    rw [exec, execAdReset, command, requireAd, State.accept_ad, ha, require_true, Run.go_andThen, hu, Run.finish_stop]
  refine ⟨u, hexec, hbusy, hrst, ?_, hrep, hlast, step_of_busy hbusy⟩
  rw [adState_of_att (hatt.trans ha), if_pos hrst]

/-! ### The pins (R37, R55, R65) -/

theorem pins_of_idle (h : t.busy = false) : pins t = if t.busOk then some (pack t.cfg t.lines) else none := by
  simp [pins, lastRequestSucceeded, h]

theorem pins_of_delay {n : Nat} (h : t.busy = true) (hl : t.trace.getLast? = some (.dly n)) :
    pins t = some (pack t.cfg t.lines) := by
  simp [pins, lastRequestSucceeded, h, hl]

theorem pins_of_request (h : t.busy = true) (hl : ∀ n, t.trace.getLast? ≠ some (.dly n)) : pins t = none := by
  have hf : lastRequestSucceeded t = false := by
    rw [lastRequestSucceeded, if_pos h]
    split
    · next n hn => exact absurd hn (hl n)
    · rfl
  rw [pins, hf]; rfl

/-- The last request of the events `es`, if there is one, is at the state of the line registers. -/
def LastRequestAtLines (es : List Event) (t : State) : Prop :=
  eventStates es ≠ [] → (eventStates es).getLast? = some (pack t.cfg t.lines)

/-- What a command begun in `s` has done to the pins where it is: going on with its last request answered, in a delay
or a request that never ends, or closed, with a bad bus if with `GpioFault`. -/
inductive PinsAt (s : State) : Bool → State → Prop
  | running (t : State) (es : List Event) (htr : t.trace = s.trace ++ es) (hb : t.busy = true)
      (hbus : eventStates es ≠ [] → t.busOk = true) (hl : LastRequestAtLines es t) : PinsAt s true t
  | waiting (t : State) (es : List Event) (htr : t.trace = s.trace ++ es) (hb : t.busy = true)
      (hl : LastRequestAtLines es t) : PinsAt s false t
  | unanswered (t : State) (es : List Event) (htr : t.trace = s.trace ++ es) (hb : t.busy = true)
      (hn : ∀ n, es.getLast? ≠ some (.dly n)) : PinsAt s false t
  | closed (t : State) (hb : t.busy = false) (hbus : t.status = .gpioFault → t.busOk = false) : PinsAt s false t

theorem RegWrite.pinsAt (hw : RegWrite i t u) (h : PinsAt s true t) : PinsAt s true u := by
  cases h with
  | running _ es htr hb hbus hl => cases hw <;> exact .running _ es htr hb hbus hl

theorem eventStates_levels_getLast? (cfg : Config) {ls : List Lines} {l : Lines} (es : List Event)
    (hl : ls.getLast? = some l) : (eventStates (es ++ levelsEvents cfg ls)).getLast? = some (pack cfg l) := by
  rw [eventStates_append, eventStates_levelsEvents, List.getLast?_append, List.getLast?_map, hl]
  rfl

theorem getLast?_drvOf_ne_dly (cfg : Config) (es : List Event) (l : Lines) (n : Nat) :
    (es ++ [drvOf cfg l]).getLast? ≠ some (.dly n) := by
  rw [List.getLast?_concat]; simp [drvOf]

theorem transfer_pinsAt {ws : List Word} (c : Chan) (p : Profile) (hne : ws ≠ []) (h : PinsAt s true t) :
    (transfer ws c p t).Holds (PinsAt s) := by
  cases h with
  | running _ es htr hb hbus hl =>
  cases hbt : t.busOk with
  | false => rw [transfer_busOk_false _ _ _ hbt]; exact .closed _ rfl fun _ => hbt
  | true =>
    have hends := transfer_ends ws c p hbt
    have hls : wordsLevels t.cfg c p t.lines ws ≠ [] := fun h0 => by
      have hlen := wordsLevels_length t.cfg c p ws t.lines
      rw [h0] at hlen
      exact hne (List.length_eq_zero_iff.1 (by simpa using hlen.symm))
    generalize transfer ws c p t = r at hends
    cases hends with
    | sent sh as ws' _ _ =>
      refine .running _ (es ++ levelsEvents t.cfg (wordsLevels t.cfg c p t.lines ws)) ?_ hb (fun _ => hbt)
        fun _ => eventStates_levels_getLast? t.cfg es ?_
      · rw [State.onBus_trace, htr, List.append_assoc]
      · rw [State.onBus_lines, List.getLastD_eq_getLast?, List.getLast?_eq_some_getLast hls]; rfl
    | failed k l sh as ws' hk => exact .closed _ rfl fun _ => rfl
    | unanswered k l sh as ws' hk _ =>
      refine .unanswered _ (es ++ levelsEvents t.cfg ((wordsLevels t.cfg c p t.lines ws).take k) ++ [drvOf t.cfg l])
        ?_ hb ?_
      · rw [State.onBus_trace, htr]; simp only [List.append_assoc]
      · exact getLast?_drvOf_ne_dly _ _ _
    | waiting k l sh as ws' hk _ =>
      refine .waiting _ (es ++ levelsEvents t.cfg ((wordsLevels t.cfg c p t.lines ws).take (k + 1))) ?_ hb
        fun _ => eventStates_levels_getLast? t.cfg es ?_
      · rw [State.onBus_trace, htr, List.append_assoc]
      · rw [State.onBus_lines, List.getLast?_take, if_neg (Nat.succ_ne_zero k), Nat.add_sub_cancel, hk]; rfl

theorem cfgIdleProc_pinsAt (p : Profile) (h : PinsAt s true t) : (cfgIdleProc p t).Holds (PinsAt s) := by
  cases h with
  | running _ es htr hb hbus hl =>
  have hlast : ∀ n, (eventStates (es ++ [.cfg t.cfg.enMask t.cfg.dirMask (pack t.cfg (Lines.idle t.cfg p.cpol)),
      .dly n])).getLast? = some (pack t.cfg (Lines.idle t.cfg p.cpol)) := fun n => by
    rw [eventStates_append]; exact List.getLast?_concat
  rcases cfgIdleProc_ends p t with ⟨as, ws, hr⟩ | ⟨as, ws, hr⟩ | ⟨as, ws, hr, -⟩ | ⟨as, ws, hr, -⟩
  · rw [hr]
    exact .running _ _ (by rw [State.onBus_trace, htr, List.append_assoc]) hb (fun _ => rfl) fun _ => hlast _
  · rw [hr]; exact .closed _ rfl fun _ => rfl
  · rw [hr]
    exact .unanswered _ _ (by rw [State.onBus_trace, htr, List.append_assoc]) hb
      fun n => by rw [List.getLast?_concat]; simp
  · rw [hr]
    exact .waiting _ _ (by rw [State.onBus_trace, htr, List.append_assoc]) hb fun _ => hlast _

theorem delay_pinsAt (n : Nat) (h : PinsAt s true t) : (delay n t).Holds (PinsAt s) := by
  cases h with
  | running _ es htr hb hbus hl =>
  have hstates : eventStates (es ++ [.dly n]) = eventStates es := by
    rw [eventStates_append]; exact List.append_nil _
  have htr' : t.trace ++ [.dly n] = s.trace ++ (es ++ [.dly n]) := by rw [htr, List.append_assoc]
  rcases delay_ends n t with ⟨ws, hr, -⟩ | ⟨ws, hr, -⟩
  · rw [hr]
    exact .running _ _ htr' hb (fun h => hbus (hstates ▸ h)) fun h => by rw [hstates]; exact hl (hstates ▸ h)
  · rw [hr]
    exact .waiting _ _ htr' hb fun h => by rw [hstates]; exact hl (hstates ▸ h)

theorem stable_pinsAt (s : State) : Stable i (PinsAt s) where
  write _ _ h hw := hw.pinsAt h
  reject _ _ _ _ he := .closed _ rfl fun h => absurd h he
  transfer _ c p _ hne h := transfer_pinsAt c p hne h
  cfgIdle p _ h := cfgIdleProc_pinsAt p h
  delay n _ h := delay_pinsAt n h

/-- What a command that has not reported `OK` has done to the pins. -/
theorem pinsAt_of_exec (h : exec i s = .next t) (hok : t.busy = true ∨ t.status = .gpioFault) : PinsAt s false t := by
  have hP : (body i s.accept).Holds (PinsAt s) :=
    (stable_pinsAt s).body (.running _ [] (List.append_nil _).symm rfl nofun nofun)
  rw [eq_finish_body_of_exec h] at hok ⊢
  cases hr : body i s.accept with
  | stop u => rw [hr] at hP; exact hP
  | go u =>
    rw [hr] at hok
    rcases hok with hok | hok <;> cases hok

/-- What a command that reported `OK` has done to the pins: those of its last request. -/
theorem pins_of_ok {es : List Event} (h : exec i s = .next t) (hr : t.replies = s.replies ++ [.ok])
    (htr : t.trace = s.trace ++ es) (hne : eventStates es ≠ []) : pins t = (eventStates es).getLast? := by
  obtain ⟨u, hu, rfl⟩ := body_of_replies_ok h hr
  have hP : (body i s.accept).Holds (PinsAt s) :=
    (stable_pinsAt s).body (.running _ [] (List.append_nil _).symm rfl nofun nofun)
  rw [hu] at hP
  cases hP with
  | running _ es' htr' _ hbus hl =>
    obtain rfl : es' = es := List.append_cancel_left (htr'.symm.trans htr)
    rw [pins_of_idle rfl, State.close_busOk, hbus hne, if_pos rfl, hl hne]
    rfl

/-- Settles O55: the line registers hold the last request while the command goes on, and its failure leaves `BUS_OK`
clear. -/
theorem pinsFollowLastRequest : Obligations.PinsFollowLastRequest := by
  intro i s t es h htr hne
  have hlast : t.trace.getLast? = es.getLast? := by
    rw [htr, List.getLast?_append_of_ne_nil]
    rintro rfl; exact hne rfl
  refine ⟨fun hr => pins_of_ok h hr htr hne, fun hr => ?_, fun n hb hn => ?_, fun hb hn => ?_⟩
  · rcases exec_ends h with hrun | ⟨u, e, hrun, rfl, -⟩
    · exact absurd (hrun.replies.symm.trans hr) (by simp)
    · rw [State.close_replies, hrun.replies, State.accept_replies, List.append_cancel_left_eq,
        List.singleton_inj] at hr
      subst hr
      cases pinsAt_of_exec h (.inr rfl) with
      | waiting _ _ _ hb => cases hb
      | unanswered _ _ _ hb => cases hb
      | closed _ _ hbus => rw [pins_of_idle rfl, hbus rfl]; rfl
  · cases pinsAt_of_exec h (.inl hb) with
    | waiting _ es' htr' _ hl =>
      obtain rfl : es' = es := List.append_cancel_left (htr'.symm.trans htr)
      rw [pins_of_delay hb (hlast.trans hn), hl hne]
    | unanswered _ es' htr' _ hn' =>
      obtain rfl : es' = es := List.append_cancel_left (htr'.symm.trans htr)
      exact absurd hn (hn' n)
    | closed _ hf => exact absurd (hb.symm.trans hf) (by decide)
  · exact pins_of_request hb fun n => hlast ▸ hn n

end Sys2Proof.Machine
end

section
/-! PROOFS. The memory family, the port and the line registers: what a step takes from the host's queue, what the
portless commands leave alone, and how far successive levels of a transfer differ. -/

namespace Sys2Proof.Machine

variable {s t : State} {i : Instr}

/-! ### The command port (R51, R58, R212) -/

/-- R51, R58: a block that is not busy takes the word at the head of the host's queue. -/
theorem fetch_of_cmds {w : Cmd} {rest : List Cmd} (hb : s.busy = false) (hc : s.cmds = w :: rest) :
    fetch s = some (w, s.setCmds rest) := by
  rw [fetch, hb, hc]; rfl

/-- R58: a word that decodes is run as the command it is. -/
theorem step_of_decode_eq_ok {w : Cmd} {rest : List Cmd} (hb : s.busy = false) (hc : s.cmds = w :: rest)
    (hd : decode w = .ok i) : step s = exec i (s.setCmds rest) := by
  simp only [step, fetch_of_cmds hb hc, hd]

/-- R212: with nothing presented the block waits. -/
theorem step_of_cmds_eq_nil (hc : s.cmds = []) : step s = .next s := by simp [step, fetch, hc]

/-- The host's reader of a table word is the decoder, on the word cut to its length. -/
theorem decodeTableWord_eq_some {n w : Nat} :
    decodeTableWord n w = some i ↔ decode (BitVec.ofNat 64 (w % 2 ^ n)) = .ok i := by
  rw [decodeTableWord]
  cases decode (BitVec.ofNat 64 (w % 2 ^ n)) <;> simp

/-- Settles O7: the word taken is the one presented, and with it taken the queue is as it was before it was placed. -/
theorem stepRunsDecoded : Obligations.StepRunsDecoded :=
  ⟨fun _ _ _ _ hb hc hd => step_of_decode_eq_ok hb hc hd, fun s n w _ hd =>
    step_of_decode_eq_ok (s := s.withFetchWord n w) rfl rfl (decodeTableWord_eq_some.1 hd)⟩

/-- Settles O9: a busy block fetches nothing, and neither does one with an empty queue. -/
theorem busyOrIdleBlockKeepsState : Obligations.BusyOrIdleBlockKeepsState :=
  fun _ h => h.elim step_of_busy step_of_cmds_eq_nil

/-! ### The portless commands (R50, R236) -/

/-- A write of driver registers leaves the lines, `BUS_OK`, the shifter, the ports' inputs and the trace alone. -/
theorem RegWrite.keeps_bus (h : RegWrite i s t) :
    t.lines = s.lines ∧ t.busOk = s.busOk ∧ t.shifter = s.shifter ∧ t.answers = s.answers ∧ t.waits = s.waits ∧
      t.trace = s.trace := by
  cases h <;> exact ⟨rfl, rfl, rfl, rfl, rfl, rfl⟩

/-- R139, R147, R173, R174: a portless command is one write of driver registers. -/
theorem body_of_portless
    (hi : i = .adDetach ∨ i = .mcpDetach ∨ (∃ imm, i = .adSetCs imm) ∨ ∃ imm, i = .mcpSetCs imm) (s : State) :
    ∃ u, body i s = .go u ∧ RegWrite i s u := by
  rcases hi with rfl | rfl | ⟨imm, rfl⟩ | ⟨imm, rfl⟩
  · exact ⟨_, rfl, .adDetach s⟩
  · exact ⟨_, rfl, .mcpDetach s⟩
  · exact ⟨_, rfl, .adCs s imm _⟩
  · exact ⟨_, rfl, .mcpCs s imm _⟩

/-- Settles O49: such a command writes driver registers and ends. -/
theorem portlessCommandsKeepTheBus : Obligations.PortlessCommandsKeepTheBus := by
  intro i s t hi h
  obtain ⟨u, hu, hw⟩ := body_of_portless hi s.accept
  obtain rfl : t = u.close .ok := by rw [eq_finish_body_of_exec h, hu, Run.finish_go]
  exact hw.keeps_bus

/-! ### Successive levels of a transfer (R62, R104) -/

/-- R62: at most one of the five lines differs. -/
def Lines.MovesOne (a b : Lines) : Prop :=
  [a.cs0 != b.cs0, a.cs1 != b.cs1, a.cs2 != b.cs2, a.sck != b.sck, a.sdo != b.sdo].count true ≤ 1

section
variable (l : Lines) (b : Bool)

theorem Lines.movesOne_sck : l.MovesOne { l with sck := b } := by
  simp only [Lines.MovesOne, bne_self_eq_false]
  cases l.sck != b <;> decide

theorem Lines.movesOne_sdo : l.MovesOne { l with sdo := b } := by
  simp only [Lines.MovesOne, bne_self_eq_false]
  cases l.sdo != b <;> decide

theorem Lines.movesOne_setCs (c : Chan) : l.MovesOne (l.setCs c b) := by
  cases c with
  | cs0 => simp only [Lines.MovesOne, Lines.setCs, bne_self_eq_false]; cases l.cs0 != b <;> decide
  | cs1 => simp only [Lines.MovesOne, Lines.setCs, bne_self_eq_false]; cases l.cs1 != b <;> decide
  | cs2 => simp only [Lines.MovesOne, Lines.setCs, bne_self_eq_false]; cases l.cs2 != b <;> decide
end

/-- A chain that is carried on from its last entry. -/
theorem isChain_cons_append_of_getLastD {α : Type} {R : α → α → Prop} : ∀ {as bs : List α} {a : α},
    List.IsChain R (a :: as) → List.IsChain R (as.getLastD a :: bs) → List.IsChain R (a :: (as ++ bs))
  | [], _, _, _, h => h
  | a' :: as, bs, a, h, h' => by
    rw [List.isChain_cons_cons] at h
    rw [List.getLastD_cons] at h'
    exact List.isChain_cons_cons.2 ⟨h.1, isChain_cons_append_of_getLastD h.2 h'⟩

/-- R104: a bit slot moves the data line and the clock one after the other. -/
theorem slotLevels_movesOne (p : Profile) (l : Lines) (b : Bool) :
    List.IsChain Lines.MovesOne (l :: slotLevels p l b) := by
  have hidle := Lines.movesOne_sck { l with sck := activeLevel p, sdo := b } (idleLevel p)
  cases h : p.cpha with
  | true =>
    simp only [slotLevels, h, if_true, List.isChain_cons_cons]
    exact ⟨l.movesOne_sck _, Lines.movesOne_sdo { l with sck := activeLevel p } b, hidle, .singleton _⟩
  | false =>
    simp only [slotLevels, h, Bool.false_eq_true, if_false, List.isChain_cons_cons]
    exact ⟨l.movesOne_sdo b, Lines.movesOne_sck { l with sdo := b } _, hidle, .singleton _⟩

theorem slotsLevels_movesOne (p : Profile) : ∀ (bs : List Bool) (l : Lines),
    List.IsChain Lines.MovesOne (l :: slotsLevels p l bs)
  | [], _ => .singleton _
  | b :: bs, l => isChain_cons_append_of_getLastD (slotLevels_movesOne p l b) <| by
      rw [slotLevels_last]; exact slotsLevels_movesOne p bs _

/-- R104: a word moves its chip-select, then the lines of its slots, its chip-select, and the data line. -/
theorem wordLevels_movesOne (cfg : Config) (c : Chan) (p : Profile) (l : Lines) (w : Word) :
    List.IsChain Lines.MovesOne (l :: wordLevels cfg c p l w) := by
  have hrelease : ∀ b, Lines.MovesOne { l.setCs c false with sck := idleLevel p, sdo := b }
      { l.setCs c true with sck := idleLevel p, sdo := b } := fun b => by
    have h := Lines.movesOne_setCs { l.setCs c false with sck := idleLevel p, sdo := b } true c
    cases c <;> exact h
  rw [wordLevels, List.append_assoc]
  refine isChain_cons_append_of_getLastD (List.isChain_pair.2 (l.movesOne_setCs false c)) ?_
  refine isChain_cons_append_of_getLastD (slotsLevels_movesOne p _ _) ?_
  rw [wordBits_last, slotsLevels_last]
  simp only [List.isChain_cons_cons]
  exact ⟨hrelease _, Lines.movesOne_sdo _ _, .singleton _⟩

/-- R62, R107: so does a transfer, word after word. -/
theorem wordsLevels_movesOne (cfg : Config) (c : Chan) (p : Profile) : ∀ (ws : List Word) (l : Lines),
    List.IsChain Lines.MovesOne (l :: wordsLevels cfg c p l ws)
  | [], _ => .singleton _
  | w :: ws, l => isChain_cons_append_of_getLastD (wordLevels_movesOne cfg c p l w) <| by
      rw [wordLevels_last]; exact wordsLevels_movesOne cfg c p ws _

/-- Settles O19: slots and words are chains of such moves, and each starts where the one before it ends. -/
theorem oneLineMovesAtATime : Obligations.OneLineMovesAtATime := by
  intro cfg c p l ws k a b ha hb
  obtain ⟨hk, rfl⟩ := List.getElem?_eq_some_iff.1 ha
  obtain ⟨hk', rfl⟩ := List.getElem?_eq_some_iff.1 hb
  exact (wordsLevels_movesOne cfg c p ws l).getElem k hk'

end Sys2Proof.Machine
end

section
/-! PROOFS. The memory family, a failed request: the levels sent before it, and the XFER that ends there (R55, R108). -/

namespace Sys2Proof.Machine

variable {s t : State}

/-- The state a request for the levels `l` leaves when the adapter fails it, which the next answer does. -/
def State.rejected (s : State) (l : Lines) : State :=
  ((((s.setLines l).log (drvOf s.cfg l)).setAnswers s.answers.tail).setBusOk false).close .gpioFault

/-- R55: a failed request raises `GpioFault`, with the line registers as requested and no delay. -/
theorem stepLines_rejected (l : Lines) (h : s.answers.head? = some .failure) :
    stepLines l s = .stop (s.rejected l) := by
  obtain ⟨as, ha⟩ := List.head?_eq_some_iff.1 h
  simp [stepLines, gpioDrive, request, ha, raise, State.rejected, drvOf]

/-- R108: levels sent with request `k` failing are sent up to level `k`, which is requested. -/
theorem sendLevels_rejected {ls : List Lines} {k : Nat} {l : Lines} (hl : ls[k]? = some l) (h : s.failsAt k) :
    sendLevels ls s = .stop ((s.played (ls.take k)).rejected l) := by
  obtain ⟨hk, rfl⟩ := List.getElem?_eq_some_iff.1 hl
  obtain ⟨hfail, hready⟩ := h
  have hlen : (ls.take k).length = k := List.length_take_of_le hk.le
  have hready' : s.portsReady (ls.take k).length (ls.take k).length := by
    rw [hlen]; exact portsReady_mono hready le_rfl (Nat.le_succ k)
  have hhead : (s.played (ls.take k)).answers.head? = some .failure := by
    rw [State.played_answers, hlen, List.head?_drop, hfail]
  calc sendLevels ls s
      = sendLevels (ls.take k ++ ls[k] :: ls.drop (k + 1)) s := by rw [List.getElem_cons_drop, List.take_append_drop]
    _ = sendLevels (ls[k] :: ls.drop (k + 1)) (s.played (ls.take k)) := by
        rw [sendLevels_append, sendLevels_ready _ hready', Run.go_andThen]
    _ = .stop ((s.played (ls.take k)).rejected ls[k]) := by
        rw [sendLevels, stepLines_rejected _ hhead, Run.stop_andThen]

/-- R107, R108: a transfer on a good bus with request `k` failing; `sh` is where the shifter was left. -/
theorem transfer_rejected {ws : List Word} {c : Chan} {p : Profile} {k : Nat} {l : Lines} (hb : s.busOk = true)
    (h : s.failsAt k) (hl : (wordsLevels s.cfg c p s.lines ws)[k]? = some l) :
    ∃ sh, transfer ws c p s =
      .stop (((s.played ((wordsLevels s.cfg c p s.lines ws).take k)).rejected l).setShifter sh) := by
  have hsends := (transferWords_sends c p ws 0 s).1
  rw [sendLevels_rejected hl h] at hsends
  rw [transfer, hb, require_true, Run.go_andThen]
  cases hr : transferWords c p 0 ws s with
  | go u => rw [hr] at hsends; cases hsends
  | stop u =>
    rw [hr] at hsends
    have hu : u = u.forget.setShifter u.shifter := rfl
    exact ⟨u.shifter, by rw [hu, Run.stop.inj hsends]; rfl⟩

/-- R107: an XFER the block can carry, of a profile that is not switched off. -/
theorem exec_xfer_of_legalIn {c : Chan} {p : Profile} {ws : List Word} (h : (Instr.xfer c p ws).legalIn s.cfg = true)
    (hp : profileAllowed s.cfg p = true) :
    exec (.xfer c p ws) s = .next (transfer (ws.map (sentWord s.cfg p)) c p s.accept).finish := by
  rw [exec, execXfer, if_pos h, if_pos hp]; rfl

/-- R107, R194: on a bad bus such an XFER ends with `GpioFault` and does nothing else. -/
theorem exec_xfer_of_busOk_false {c : Chan} {p : Profile} {ws : List Word}
    (h : (Instr.xfer c p ws).legalIn s.cfg = true) (hp : profileAllowed s.cfg p = true) (hb : s.busOk = false) :
    exec (.xfer c p ws) s = .next (s.close .gpioFault) := by
  rw [exec_xfer_of_legalIn h hp, transfer_busOk_false _ _ _ (s := s.accept) hb]; rfl

/-- Settles O16: the levels before the failed request were sent, and after it the bus is bad. -/
theorem xferFailure : Obligations.XferFailure := by
  intro c p ws s k l hlegal hp hb hfail hl
  obtain ⟨sh, hsh⟩ := transfer_rejected (s := s.accept) hb hfail hl
  have hexec := exec_xfer_of_legalIn hlegal hp
  rw [hsh, Run.finish_stop] at hexec
  exact ⟨_, hexec, rfl, rfl, rfl, rfl, rfl, rfl, rfl, rfl, rfl, rfl, exec_xfer_of_busOk_false hlegal hp rfl⟩

end Sys2Proof.Machine
end

section
/-! PROOFS. The memory family, the trace is an output only (R57): every procedure commutes with putting earlier events
before its trace. -/

namespace Sys2Proof.Machine

variable {s t : State} {i : Instr}

/-- The state with the events `past` before all those of its trace. -/
def State.after (past : List Event) (s : State) : State := { s with trace := past ++ s.trace }

/-- A command after some of its lines, with the events `past` before all those of its trace. -/
def Run.after (past : List Event) : Run → Run
  | .go s => .go (s.after past)
  | .stop s => .stop (s.after past)

section
variable (past : List Event)

@[simp] theorem State.after_cfg (s : State) : (s.after past).cfg = s.cfg := rfl
@[simp] theorem State.after_answers (s : State) : (s.after past).answers = s.answers := rfl
@[simp] theorem State.after_waits (s : State) : (s.after past).waits = s.waits := rfl

theorem State.after_log (s : State) (e : Event) : (s.after past).log e = (s.log e).after past := by
  simp [State.after, State.log]

/-- Lines that do the same after any past, one after the other, do the same after any past. -/
theorem Run.after_andThen {r r' : Run} {f g : State → Run} (hr : r' = r.after past)
    (hf : ∀ t, g (t.after past) = (f t).after past) : r'.andThen g = (r.andThen f).after past := by
  subst hr
  cases r with
  | go t => exact hf t
  | stop t => rfl

/-! ### The ports and the engine -/

theorem require_after (c : Bool) (e : Status) (s : State) :
    require c e (s.after past) = (require c e s).after past := by cases c <;> rfl

theorem request_after (e : Event) (s : State) : request e (s.after past) = (request e s).after past := by
  simp only [request, State.after_answers, State.after_log]
  cases s.answers with
  | nil => rfl
  | cons a as => cases a <;> rfl

theorem delay_after (n : Nat) (s : State) : delay n (s.after past) = (delay n s).after past := by
  simp only [delay, State.after_waits, State.after_log]
  cases s.waits with
  | nil => rfl
  | cons w ws => cases w <;> rfl

theorem stepLines_after (l : Lines) (s : State) : stepLines l (s.after past) = (stepLines l s).after past :=
  Run.after_andThen past (request_after past _ (s.setLines l)) fun t => delay_after past _ t

theorem sendLevels_after : ∀ (ls : List Lines) (s : State),
    sendLevels ls (s.after past) = (sendLevels ls s).after past
  | [], _ => rfl
  | l :: ls, s => Run.after_andThen past (stepLines_after past l s) (sendLevels_after ls)

theorem bitSlots_after (p : Profile) : ∀ (n : Nat) (s : State),
    bitSlots p n (s.after past) = (bitSlots p n s).after past
  | 0, _ => rfl
  | n + 1, s => by
    refine Run.after_andThen past ?_ (bitSlots_after p n)
    rw [bitSlot_sends, bitSlot_sends]
    exact Run.after_andThen past (sendLevels_after past _ s) fun t => rfl

theorem transferWord_after (c : Chan) (p : Profile) (k : Nat) (w : Word) (s : State) :
    transferWord c p k w (s.after past) = (transferWord c p k w s).after past :=
  Run.after_andThen past (stepLines_after past _ (s.setShifter (Shifter.load w k))) fun t =>
    Run.after_andThen past (bitSlots_after past p 16 t) fun u =>
      Run.after_andThen past (stepLines_after past _ u) fun v => stepLines_after past _ v

theorem transferWords_after (c : Chan) (p : Profile) : ∀ (ws : List Word) (k : Nat) (s : State),
    transferWords c p k ws (s.after past) = (transferWords c p k ws s).after past
  | [], _, _ => rfl
  | w :: ws, k, s => Run.after_andThen past (transferWord_after past c p k w s) (transferWords_after c p ws (k + 1))

theorem transfer_after (ws : List Word) (c : Chan) (p : Profile) (s : State) :
    transfer ws c p (s.after past) = (transfer ws c p s).after past :=
  Run.after_andThen past (require_after past _ _ s) (transferWords_after past c p ws 0)

theorem cfgIdleProc_after (p : Profile) (s : State) :
    cfgIdleProc p (s.after past) = (cfgIdleProc p s).after past :=
  Run.after_andThen past (request_after past _ (s.setLines _)) fun t =>
    Run.after_andThen past (delay_after past _ t) fun _ => rfl

/-! ### The drivers and the commands -/

theorem writeReg_after (s : State) : writeReg (s.after past) = (writeReg s).after past :=
  transfer_after past _ _ _ s

theorem resetSeq_after (s : State) : resetSeq (s.after past) = (resetSeq s).after past :=
  Run.after_andThen past (writeReg_after past (putCtrl .reset true s)) fun t =>
    Run.after_andThen past (delay_after past _ (t.setAdRst true)) fun u =>
      Run.after_andThen past (writeReg_after past (putCtrl .reset false u)) fun _ => rfl

theorem setModeProc_after (m : Mode) (s : State) : setModeProc m (s.after past) = (setModeProc m s).after past :=
  Run.after_andThen past (require_after past _ _ s) fun t => writeReg_after past (t.setAdCtrl _)

/-- The lines of a command do the same after any past. -/
theorem body_after (i : Instr) (s : State) : body i (s.after past) = (body i s).after past := by
  cases i with
  | cfgIdle p => exact cfgIdleProc_after past p s
  | xfer c p ws =>
    rw [body, body, State.after_cfg]
    by_cases hl : (Instr.xfer c p ws).legalIn s.cfg = true
    · rw [if_pos hl, if_pos hl]; exact transfer_after past _ c p s
    · rw [if_neg hl, if_neg hl]; rfl
  | adAttach | mcpAttach => exact Run.after_andThen past (cfgIdleProc_after past _ s) fun _ => rfl
  | adDetach | adSetCs imm | mcpDetach | mcpSetCs imm => rfl
  | adBegin =>
    exact Run.after_andThen past (require_after past _ _ s) fun t =>
      Run.after_andThen past (writeReg_after past (putCtrl .b28 true t)) (resetSeq_after past)
  | adReset => exact Run.after_andThen past (require_after past _ _ s) (resetSeq_after past)
  | adSetFreq ch f =>
    exact Run.after_andThen past (require_after past _ _ s) fun t =>
      Run.after_andThen past (require_after past _ _ t) fun u => transfer_after past _ _ _ u
  | adSetAct ch =>
    exact Run.after_andThen past (require_after past _ _ s) fun t =>
      Run.after_andThen past (require_after past _ _ t) fun u => writeReg_after past (putCtrl .fselect _ u)
  | adSetMode m => exact setModeProc_after past m s
  | adShutdown => exact setModeProc_after past .off s
  | mcpWrite imm =>
    exact Run.after_andThen past (require_after past _ _ s) fun t => transfer_after past _ _ _ t

theorem Run.finish_after (r : Run) : (r.after past).finish = r.finish.after past := by cases r <;> rfl

/-- R57: the state in which a command ends has its own events after any past. -/
theorem finish_body_after (i : Instr) (s : State) :
    (body i (s.after past).accept).finish = (body i s.accept).finish.after past :=
  (congrArg Run.finish (body_after past i s.accept)).trans (Run.finish_after past _)
end

/-- Whether a command is refused or at fault depends on the configuration, the AD9833 driver and `BUS_OK` alone. -/
theorem exec_eq_finish_body {s' : State} (h : exec i s = .next t) (hcfg : s'.cfg = s.cfg) (had : s'.ad = s.ad)
    (hb : s'.busOk = s.busOk) : exec i s' = .next (body i s'.accept).finish := by
  cases i with
  | cfgIdle p =>
    rw [exec, execCfgIdle] at h ⊢
    rw [hcfg]
    split_ifs at h ⊢
    rfl
  | xfer c p ws =>
    rw [exec, execXfer] at h ⊢
    rw [body, State.accept_cfg, hcfg]
    split_ifs at h ⊢
    · rfl
    · rfl
  | adSetFreq ch f =>
    rw [exec, execAdSetFreq] at h ⊢
    rw [hcfg, had, hb]
    split_ifs at h ⊢
    rfl
  | _ => rfl

/-- Settles O51: both runs are that from an empty trace, each after its own past. -/
theorem traceIsNotRead : Obligations.TraceIsNotRead := by
  intro i s t past h
  obtain ⟨s₀, hs⟩ : ∃ s₀ : State, ∀ p, { s with trace := p } = s₀.after p :=
    ⟨{ s with trace := [] }, fun p => by simp [State.after]⟩
  have ht : t = (body i s₀.accept).finish.after s.trace := by
    rw [← finish_body_after, ← hs]; exact eq_finish_body_of_exec h
  refine ⟨(body i s₀.accept).finish.trace, by rw [ht]; rfl, ?_⟩
  rw [exec_eq_finish_body h (s' := { s with trace := past }) rfl rfl rfl, hs, finish_body_after, ht]
  rfl

end Sys2Proof.Machine
end

section
/-! PROOFS. The encoding family, the round trip: a word is its three fields, the fields of a word's parts, and the commands
a word decodes to. -/

namespace Sys2Proof

variable {w : Cmd} {i : Instr}

/-! ### The fields of a word (R70) -/

theorem append_eq_append_iff {m n : Nat} {a c : BitVec m} {b d : BitVec n} : a ++ b = c ++ d ↔ a = c ∧ b = d := by
  refine ⟨fun h => ⟨?_, ?_⟩, by rintro ⟨rfl, rfl⟩; rfl⟩
  · simpa only [BitVec.extractLsb'_append_eq_left] using congrArg (BitVec.extractLsb' n m) h
  · simpa only [BitVec.extractLsb'_append_eq_right] using congrArg (BitVec.extractLsb' 0 n) h

theorem field_eq_append (m n lo : Nat) {a : BitVec m} {b : BitVec n} :
    field (m + n) lo w = a ++ b ↔ field m (lo + n) w = a ∧ field n lo w = b := by
  have hsplit : field (m + n) lo w = field m (lo + n) w ++ field n lo w :=
    (BitVec.extractLsb'_append_extractLsb'_eq_extractLsb' rfl).symm
  rw [hsplit, append_eq_append_iff]

theorem field_and (n lo : Nat) (w v : Cmd) : field n lo (w &&& v) = field n lo w &&& field n lo v := by
  ext; simp [field]

theorem opc_and (w v : Cmd) : opc (w &&& v) = opc w &&& opc v := field_and 8 56 w v

/-- R70: a word is a built word exactly when its three fields are the parts. -/
theorem eq_append_iff {o a : BitVec 8} {b : BitVec 48} :
    w = (o ++ a) ++ b ↔ opc w = o ∧ field 8 48 w = a ∧ field 48 0 w = b := by
  have hw : field 64 0 w = w := BitVec.extractLsb'_eq_self
  calc w = (o ++ a) ++ b
    _ ↔ field 64 0 w = (o ++ a) ++ b := by rw [hw]
    _ ↔ field 16 48 w = o ++ a ∧ field 48 0 w = b := field_eq_append 16 48 0
    _ ↔ (opc w = o ∧ field 8 48 w = a) ∧ field 48 0 w = b := and_congr_left' (field_eq_append 8 8 48)
    _ ↔ opc w = o ∧ field 8 48 w = a ∧ field 48 0 w = b := and_assoc

/-- R70: a word is the encoding of a command exactly when it carries its opcode and its two operands. -/
theorem eq_encode_iff :
    w = encode i ↔ opc w = i.opcode ∧ field 8 48 w = i.shortOperand ∧ field 48 0 w = i.longOperand :=
  eq_append_iff

theorem opc_encode (i : Instr) : opc (encode i) = i.opcode := opc_append _ _ _

/-! ### The row of the opcode map a word is read by (R72) -/

/-- R71, R72: the decoder of the format in the row of a command's constructor. -/
@[simp] def Instr.rowDecode : Instr → Cmd → Except Reject Instr
  | .cfgIdle _ => decodeP .cfgIdle
  | .xfer _ _ _ => decodeX .xfer
  | .adAttach => decodeN .adAttach
  | .adDetach => decodeN .adDetach
  | .adSetCs _ => decodeI .adSetCs
  | .adBegin => decodeN .adBegin
  | .adReset => decodeN .adReset
  | .adSetFreq _ _ => decodeF .adSetFreq
  | .adSetAct _ => decodeC .adSetAct
  | .adSetMode _ => decodeM .adSetMode
  | .adShutdown => decodeN .adShutdown
  | .mcpAttach => decodeN .mcpAttach
  | .mcpDetach => decodeN .mcpDetach
  | .mcpSetCs _ => decodeI .mcpSetCs
  | .mcpWrite _ => decodeI .mcpWrite

theorem decode_of_opc (h : opc w = i.opcode) : decode w = i.rowDecode w := by
  unfold decode; rw [h]; cases i <;> rfl

/-- R72: a word decodes to a command exactly when it carries its opcode and its row's decoder reads the command. -/
theorem decode_eq_ok_iff : decode w = .ok i ↔ opc w = i.opcode ∧ i.rowDecode w = .ok i := by
  refine ⟨fun h => ?_, fun ⟨hopc, h⟩ => by rw [decode_of_opc hopc, h]⟩
  have hopc := opc_of_decode_eq_ok h
  exact ⟨hopc, by rw [← decode_of_opc hopc, h]⟩

/-! ### The operands each format reads (R71, R73, R74, R75, R76) -/

theorem Profile.ofBits_eq_iff {b : BitVec 3} {p : Profile} : Profile.ofBits b = p ↔ b = p.toBits :=
  ⟨fun h => by rw [← h, Profile.toBits_ofBits], fun h => by rw [h, Profile.ofBits_toBits]⟩

theorem Mode.ofBits_eq_some_iff {b : BitVec 3} {m : Mode} : Mode.ofBits b = some m ↔ b = m.toBits := by
  revert b; cases m <;> decide

theorem Chan.ofBits_eq_some_iff {b : BitVec 2} {c : Chan} : Chan.ofBits b = some c ↔ b = c.toBits := by
  revert b; cases c <;> decide

theorem decodeN_iff_operands (j : Instr) : decodeN j w = .ok j ↔ field 8 48 w = 0#8 ∧ field 48 0 w = 0#48 := by
  rw [decodeN_eq_ok, and_iff_left rfl]
  exact field_eq_append 8 48 0 (a := 0#8) (b := 0#48)

theorem decodeI_iff_operands {mk : BitVec 32 → Instr} (hmk : mk.Injective) {imm : BitVec 32} :
    decodeI mk w = .ok (mk imm) ↔ field 8 48 w = 0#8 ∧ field 48 0 w = 0#16 ++ imm := by
  have hz : field 24 32 w = 0#24 ↔ field 8 48 w = 0#8 ∧ field 16 32 w = 0#16 :=
    field_eq_append 8 16 32 (a := 0#8) (b := 0#16)
  have hb : field 48 0 w = 0#16 ++ imm ↔ field 16 32 w = 0#16 ∧ field 32 0 w = imm := field_eq_append 16 32 0
  rw [decodeI_eq_ok, hmk.eq_iff, hz, hb, and_assoc]

theorem decodeC_iff_operands {mk : BitVec 8 → Instr} (hmk : mk.Injective) {ch : BitVec 8} :
    decodeC mk w = .ok (mk ch) ↔ field 8 48 w = ch ∧ field 48 0 w = 0#48 := by
  rw [decodeC_eq_ok, hmk.eq_iff, and_comm]

theorem field_short_three {c : BitVec 3} : field 8 48 w = 0#5 ++ c ↔ field 5 51 w = 0#5 ∧ field 3 48 w = c :=
  field_eq_append 5 3 48

theorem decodeM_iff_operands {mk : Mode → Instr} (hmk : mk.Injective) {m : Mode} :
    decodeM mk w = .ok (mk m) ↔ field 8 48 w = 0#5 ++ m.toBits ∧ field 48 0 w = 0#48 := by
  simp only [decodeM_eq_ok, hmk.eq_iff, exists_eq_right, Mode.ofBits_eq_some_iff, field_short_three]
  exact and_right_comm

theorem decodeP_iff_operands {mk : Profile → Instr} (hmk : mk.Injective) {p : Profile} :
    decodeP mk w = .ok (mk p) ↔ field 8 48 w = 0#5 ++ p.toBits ∧ field 48 0 w = 0#48 := by
  rw [decodeP_eq_ok, hmk.eq_iff, Profile.ofBits_eq_iff, field_short_three]
  exact and_right_comm

/-- R71: the formats but X read a command exactly when the word carries the command's two operands. -/
theorem rowDecode_iff_operands (hi : i.opcode ≠ 0x02#8) :
    i.rowDecode w = .ok i ↔ field 8 48 w = i.shortOperand ∧ field 48 0 w = i.longOperand := by
  cases i with
  | xfer c p ws => exact absurd rfl hi
  | cfgIdle p => exact decodeP_iff_operands fun _ _ h => by injection h
  | adSetMode m => exact decodeM_iff_operands fun _ _ h => by injection h
  | adSetAct ch => exact decodeC_iff_operands fun _ _ h => by injection h
  | adSetCs imm | mcpSetCs imm | mcpWrite imm => exact decodeI_iff_operands fun _ _ h => by injection h
  | adSetFreq ch f => exact decodeF_eq_ok.trans (by simp [Instr.shortOperand, Instr.longOperand])
  | adAttach | adDetach | adBegin | adReset | adShutdown | mcpAttach | mcpDetach => exact decodeN_iff_operands _

/-- R70 to R76: a word decodes to a command other than XFER exactly when it is the command's encoding. -/
theorem decode_eq_ok_iff_eq_encode (hi : i.opcode ≠ 0x02#8) : decode w = .ok i ↔ w = encode i := by
  rw [decode_eq_ok_iff, rowDecode_iff_operands hi, eq_encode_iff]

/-! ### The operands of an XFER (R75, R76) -/

/-- R71 format X: `A` is a zero bit, the count, the channel and the profile. -/
theorem field_short_xfer {z : BitVec 1} {n c : BitVec 2} {p : BitVec 3} :
    field 8 48 w = ((z ++ n) ++ c) ++ p ↔
      ((field 1 55 w = z ∧ field 2 53 w = n) ∧ field 2 51 w = c) ∧ field 3 48 w = p :=
  (field_eq_append 5 3 48).trans <| and_congr_left' <| (field_eq_append 3 2 51).trans <| and_congr_left' <|
    field_eq_append 1 2 53

/-- R71 format X: `B` is three words, the first in its low bits. -/
theorem field_long_xfer {w₂ w₁ w₀ : Word} :
    field 48 0 w = (w₂ ++ w₁) ++ w₀ ↔ (field 16 32 w = w₂ ∧ field 16 16 w = w₁) ∧ field 16 0 w = w₀ :=
  (field_eq_append 32 16 0).trans <| and_congr_left' <| field_eq_append 16 16 16

/-- R75, R76: a word decodes to an XFER exactly when it carries its opcode, a zero, its channel and its profile, and the
words it counts, at least one, are the XFER's. -/
theorem decode_eq_ok_xfer_iff {c : Chan} {p : Profile} {ws : List Word} :
    decode w = .ok (.xfer c p ws) ↔
      opc w = 0x02#8 ∧ field 1 55 w = 0#1 ∧ field 2 53 w ≠ 0#2 ∧ field 2 51 w = c.toBits ∧ field 3 48 w = p.toBits ∧
        xferWords w = ws := by
  rw [decode_eq_ok_iff]
  simp only [Instr.opcode, Instr.rowDecode, decodeX_eq_ok, Instr.xfer.injEq, Chan.ofBits_eq_some_iff,
    Profile.ofBits_eq_iff]
  constructor
  · rintro ⟨hopc, hz, hn, c', hc, rfl, hp, hws⟩
    exact ⟨hopc, hz, hn, hc, hp, hws⟩
  · rintro ⟨hopc, hz, hn, hc, hp, hws⟩
    exact ⟨hopc, hz, hn, c, hc, rfl, hp, hws⟩

/-- R76: a well-formed XFER has one, two or three words. -/
theorem wf_xfer_iff {c : Chan} {p : Profile} {ws : List Word} :
    (Instr.xfer c p ws).wf = true ↔ (∃ a, ws = [a]) ∨ (∃ a b, ws = [a, b]) ∨ ∃ a b d, ws = [a, b, d] := by
  rw [← List.length_eq_one_iff, ← List.length_eq_two, ← List.length_eq_three]
  simp only [Instr.wf, Bool.and_eq_true, decide_eq_true_eq]
  omega

/-- R70 to R76: an encoded XFER carries a zero, its count, its channel and its profile, and counts its own words. -/
theorem decode_encode_xfer {c : Chan} {p : Profile} {ws : List Word} (h : (Instr.xfer c p ws).wf = true) :
    decode (encode (.xfer c p ws)) = .ok (.xfer c p ws) := by
  obtain ⟨hopc, hshort, hlong⟩ := eq_encode_iff.1 (Eq.refl (encode (.xfer c p ws)))
  obtain ⟨⟨⟨hz, hn⟩, hc⟩, hp⟩ := field_short_xfer.1 hshort
  obtain ⟨⟨h₂, h₁⟩, h₀⟩ := field_long_xfer.1 hlong
  have hws : BitVec.ofNat 2 ws.length ≠ 0#2 ∧
      [ws.getD 0 0#16, ws.getD 1 0#16, ws.getD 2 0#16].take (BitVec.ofNat 2 ws.length).toNat = ws := by
    obtain ⟨a, rfl⟩ | ⟨a, b, rfl⟩ | ⟨a, b, d, rfl⟩ := wf_xfer_iff.1 h <;> simp
  refine decode_eq_ok_xfer_iff.2 ⟨hopc, hz, ?_, hc, hp, ?_⟩
  · rw [hn]; exact hws.1
  · rw [xferWords, h₀, h₁, h₂, hn]; exact hws.2

/-- Settles O4: an XFER is read field by field, every other command is read from its encoding alone. -/
theorem decodeOfEncode : Obligations.DecodeOfEncode := by
  intro i hwf
  cases i with
  | xfer c p ws => exact decode_encode_xfer hwf
  | _ => exact (decode_eq_ok_iff_eq_encode (by simp [Instr.opcode])).2 rfl

/-! ### The bits of a word that mean something (R75) -/

theorem and_usedBits_of_opc_ne (h : opc w ≠ 0x02#8) : w &&& usedBits w = w := by
  rw [usedBits, if_neg h]; exact BitVec.and_allOnes

/-- R75: the opcode and `A` are used whole. -/
theorem usedBits_upper (w : Cmd) : opc (usedBits w) = 0xFF#8 ∧ field 8 48 (usedBits w) = 0xFF#8 := by
  unfold usedBits; split_ifs <;> decide

/-- R75: the used bits of `B` are the words an XFER counts. -/
theorem field_long_and_usedBits (hopc : opc w = 0x02#8) (hn : field 2 53 w ≠ 0#2) :
    field 48 0 (w &&& usedBits w) =
      ((xferWords w).getD 2 0#16 ++ (xferWords w).getD 1 0#16) ++ (xferWords w).getD 0 0#16 := by
  have hcnt : field 2 53 w = 1#2 ∨ field 2 53 w = 2#2 ∨ field 2 53 w = 3#2 := by
    generalize field 2 53 w = n at hn; revert n; decide
  rw [field_long_xfer]
  simp only [field_and, usedBits, if_pos hopc, xferWords]
  obtain h | h | h := hcnt <;> rw [h]
  · exact ⟨⟨BitVec.and_zero, BitVec.and_zero⟩, BitVec.and_allOnes⟩
  · exact ⟨⟨BitVec.and_zero, BitVec.and_allOnes⟩, BitVec.and_allOnes⟩
  · exact ⟨⟨BitVec.and_allOnes, BitVec.and_allOnes⟩, BitVec.and_allOnes⟩

/-- R75: the used bits of a word that decodes to an XFER are the XFER's encoding. -/
theorem and_usedBits_eq_encode {c : Chan} {p : Profile} {ws : List Word} (h : decode w = .ok (.xfer c p ws)) :
    w &&& usedBits w = encode (.xfer c p ws) := by
  obtain ⟨hopc, hz, hn, hc, hp, rfl⟩ := decode_eq_ok_xfer_iff.1 h
  obtain ⟨hopcUsed, hshortUsed⟩ := usedBits_upper w
  refine eq_encode_iff.2 ⟨?_, ?_, field_long_and_usedBits hopc hn⟩
  · rw [opc_and, hopcUsed]
    exact BitVec.and_allOnes.trans hopc
  · rw [field_and, hshortUsed]
    refine BitVec.and_allOnes.trans (field_short_xfer.2 ⟨⟨⟨hz, ?_⟩, hc⟩, hp⟩)
    rw [xferWords_length, BitVec.ofNat_toNat, BitVec.setWidth_eq]

theorem wf_of_decode (h : decode w = .ok i) : i.wf = true :=
  (Bool.and_eq_true_iff.1 (legalIn_of_decode_eq_ok (cfg := .default) (by decide) h)).1

/-- Settles O5: all bits are used but those of an XFER's uncounted words, which its encoding has as 0. -/
theorem encodeOfDecode : Obligations.EncodeOfDecode := by
  intro w i h
  refine ⟨wf_of_decode h, ?_⟩
  cases i with
  | xfer c p ws => exact (and_usedBits_eq_encode h).symm
  | _ =>
    obtain rfl := (decode_eq_ok_iff_eq_encode (by simp [Instr.opcode])).1 h
    exact (and_usedBits_of_opc_ne (by simp [opc_encode, Instr.opcode])).symm

end Sys2Proof
end

section
/-! PROOFS. The encoding family, the opcode map: its rows as those of the commands, which words they match, and the words
the decoder rejects. -/

namespace Sys2Proof

variable {w : Cmd} {i : Instr} {r : Cmd × Cmd}

/-! ### The rows of the opcode map (R71, R72) -/

/-- R71: the bits below the opcode that must be zero in the format of a command. -/
def Instr.mustBeZero : Instr → BitVec 56
  | .cfgIdle _ | .adSetMode _ => (BitVec.allOnes 5 ++ 0#3) ++ BitVec.allOnes 48
  | .xfer _ _ _ => BitVec.allOnes 1 ++ 0#55
  | .adSetCs _ | .mcpSetCs _ | .mcpWrite _ => BitVec.allOnes 24 ++ 0#32
  | .adSetFreq _ _ => 0#56
  | .adSetAct _ => 0#8 ++ BitVec.allOnes 48
  | .adAttach | .adDetach | .adBegin | .adReset | .adShutdown | .mcpAttach | .mcpDetach => BitVec.allOnes 56

/-- R72: the `(match, mask)` row of a command. -/
def Instr.row (i : Instr) : Cmd × Cmd := (i.opcode ++ 0#56, BitVec.allOnes 8 ++ i.mustBeZero)

theorem row_mem_opcodeRows (i : Instr) : i.row ∈ opcodeRows := by
  cases i <;> (dsimp only [Instr.row, Instr.opcode, Instr.mustBeZero]; decide)

theorem exists_row_eq_of_mem : ∀ r ∈ opcodeRows, ∃ i : Instr, i.row = r := by
  have h : opcodeRows = [Instr.cfgIdle ⟨false, false, false⟩, .xfer .cs0 ⟨false, false, false⟩ [], .adAttach, .adDetach,
    .adSetCs 0, .adBegin, .adReset, .adSetFreq 0 0, .adSetAct 0, .adSetMode .sine, .adShutdown, .mcpAttach, .mcpDetach,
    .mcpSetCs 0, .mcpWrite 0].map Instr.row := rfl
  rw [h]
  intro r hr
  obtain ⟨i, -, hi⟩ := List.mem_map.1 hr
  exact ⟨i, hi⟩

theorem opc_row (i : Instr) : opc i.row.1 = i.opcode := BitVec.extractLsb'_append_eq_left

theorem field_and_append (m n lo : Nat) {a c : BitVec m} {b d : BitVec n} :
    field (m + n) lo w &&& (a ++ b) = c ++ d ↔ field m (lo + n) w &&& a = c ∧ field n lo w &&& b = d := by
  rw [(field_eq_append m n lo).2 ⟨rfl, rfl⟩, BitVec.and_append, append_eq_append_iff]

/-- R71, R72: a word matches a command's row when it has the opcode and no must-be-zero bit is 1. -/
theorem matches_row_iff : w &&& i.row.2 = i.row.1 ↔ opc w = i.opcode ∧ field 56 0 w &&& i.mustBeZero = 0#56 := by
  have hw : field 64 0 w = w := BitVec.extractLsb'_eq_self
  have hopc : opc w &&& BitVec.allOnes 8 = opc w := BitVec.and_allOnes
  calc w &&& i.row.2 = i.row.1
    _ ↔ field 64 0 w &&& i.row.2 = i.row.1 := by rw [hw]
    _ ↔ opc w &&& BitVec.allOnes 8 = i.opcode ∧ field 56 0 w &&& i.mustBeZero = 0#56 := field_and_append 8 56 0
    _ ↔ opc w = i.opcode ∧ field 56 0 w &&& i.mustBeZero = 0#56 := by rw [hopc]

theorem opc_of_matches_row (hr : r ∈ opcodeRows) (h : w &&& r.2 = r.1) : opc r.1 = opc w := by
  obtain ⟨i, rfl⟩ := exists_row_eq_of_mem r hr
  rw [opc_row, (matches_row_iff.1 h).1]

theorem opcodeRows_opc_nodup : (opcodeRows.map fun r => opc r.1).Nodup := by decide

/-- Settles O2: the rows a word matches have its opcode, and the opcodes of the rows are distinct. -/
theorem opcodeRowsDisjoint : Obligations.OpcodeRowsDisjoint := by
  intro w
  have hnodup := opcodeRows_opc_nodup.sublist ((List.filter_sublist (p := fun r => w &&& r.2 == r.1)).map _)
  have hopc : ∀ o ∈ (opcodeRows.filter fun r => w &&& r.2 == r.1).map fun r => opc r.1, o = opc w := by
    simp only [List.mem_map, List.mem_filter, beq_iff_eq]
    rintro _ ⟨r, ⟨hr, h⟩, rfl⟩
    exact opc_of_matches_row hr h
  rw [List.eq_replicate_of_mem hopc, List.nodup_replicate, List.length_map] at hnodup
  exact hnodup

/-- R72: a word matches the row with its own opcode or none. -/
theorem matches_no_row_iff (h : opc w = i.opcode) :
    (∀ r ∈ opcodeRows, w &&& r.2 ≠ r.1) ↔ field 56 0 w &&& i.mustBeZero ≠ 0#56 := by
  refine ⟨fun hno hz => hno _ (row_mem_opcodeRows i) (matches_row_iff.2 ⟨h, hz⟩), fun hz r hr hm => ?_⟩
  obtain rfl : r = i.row := List.inj_on_of_nodup_map opcodeRows_opc_nodup hr (row_mem_opcodeRows i)
    (by rw [opc_of_matches_row hr hm, opc_row, h])
  exact hz (matches_row_iff.1 hm).2

/-! ### The operand values no command has (R77) -/

/-- R77 (c) to (e): the word has an operand field with a value that its format's decoder rejects. -/
def reservedOperand (w : Cmd) : Prop :=
  (opc w = 0x02#8 ∧ field 2 51 w = 3#2) ∨ (opc w = 0x02#8 ∧ field 2 53 w = 0#2) ∨
    (opc w = 0x17#8 ∧ 5 ≤ (field 3 48 w).toNat)

theorem Chan.exists_ofBits_iff {b : BitVec 2} : (∃ c, Chan.ofBits b = some c) ↔ b ≠ 3#2 := by
  rw [← Option.isSome_iff_exists]; revert b; decide

theorem Mode.exists_ofBits_iff {b : BitVec 3} : (∃ m, Mode.ofBits b = some m) ↔ b.toNat < 5 := by
  rw [← Option.isSome_iff_exists]; revert b; decide

theorem field_and_append_eq_zero (m n lo : Nat) {a : BitVec m} {b : BitVec n} :
    field (m + n) lo w &&& (a ++ b) = 0#(m + n) ↔ field m (lo + n) w &&& a = 0#m ∧ field n lo w &&& b = 0#n := by
  rw [← BitVec.zero_append_zero, field_and_append]

/-- R71: the must-be-zero fields of a command's format, as its decoder reads them, are zero. -/
@[simp] def Instr.zeroFieldsHold (w : Cmd) : Instr → Prop
  | .cfgIdle _ | .adSetMode _ => field 5 51 w = 0#5 ∧ field 48 0 w = 0#48
  | .xfer _ _ _ => field 1 55 w = 0#1
  | .adSetCs _ | .mcpSetCs _ | .mcpWrite _ => field 24 32 w = 0#24
  | .adSetFreq _ _ => True
  | .adSetAct _ => field 48 0 w = 0#48
  | .adAttach | .adDetach | .adBegin | .adReset | .adShutdown | .mcpAttach | .mcpDetach => field 56 0 w = 0#56

theorem mustBeZero_iff : field 56 0 w &&& i.mustBeZero = 0#56 ↔ i.zeroFieldsHold w := by
  have hC := field_and_append_eq_zero 8 48 0 (w := w) (a := 0#8) (b := .allOnes 48)
  have hI := field_and_append_eq_zero 24 32 0 (w := w) (a := .allOnes 24) (b := 0#32)
  have hX := field_and_append_eq_zero 1 55 0 (w := w) (a := .allOnes 1) (b := 0#55)
  have hP := (field_and_append_eq_zero 8 48 0 (w := w) (b := .allOnes 48)).trans
    (and_congr_left' (field_and_append_eq_zero 5 3 48 (a := .allOnes 5) (b := 0#3)))
  simp only [BitVec.and_allOnes, BitVec.and_zero, and_true, true_and] at hC hI hX hP
  cases i with
  | cfgIdle | adSetMode => exact hP
  | xfer => exact hX
  | adSetCs | mcpSetCs | mcpWrite => exact hI
  | adSetFreq => exact iff_of_true BitVec.and_zero trivial
  | adSetAct => exact hC
  | adAttach | adDetach | adBegin | adReset | adShutdown | mcpAttach | mcpDetach =>
    rw [Instr.mustBeZero, BitVec.and_allOnes]; rfl

/-- R77: on a word with a command's opcode, the row's decoder reads a command exactly when no must-be-zero bit is 1 and
no operand is reserved. -/
theorem exists_rowDecode_eq_ok_iff (h : opc w = i.opcode) :
    (∃ j, i.rowDecode w = .ok j) ↔ field 56 0 w &&& i.mustBeZero = 0#56 ∧ ¬ reservedOperand w := by
  rw [mustBeZero_iff, reservedOperand, h]
  cases i with
  | xfer => simp [Instr.opcode, decodeX_eq_ok, Chan.exists_ofBits_iff, and_comm]
  | adSetMode => simp [Instr.opcode, decodeM_eq_ok, Mode.exists_ofBits_iff]
  | cfgIdle => simp [Instr.opcode, decodeP_eq_ok]
  | adSetCs | mcpSetCs | mcpWrite => simp [Instr.opcode, decodeI_eq_ok]
  | adSetFreq => simp [Instr.opcode, decodeF_eq_ok]
  | adSetAct => simp [Instr.opcode, decodeC_eq_ok]
  | _ => simp [Instr.opcode, decodeN_eq_ok]

theorem exists_error_iff {ε α : Type} {x : Except ε α} : (∃ e, x = .error e) ↔ ¬ ∃ a, x = .ok a := by
  cases x <;> simp

/-- Settles O3: a word with a command's opcode is read by that command's row alone; any other matches no row. -/
theorem illegalWords : Obligations.IllegalWords := by
  intro w
  rw [exists_error_iff]
  by_cases hw : ∃ i : Instr, opc w = i.opcode
  · obtain ⟨i, hi⟩ := hw
    rw [decode_of_opc hi, matches_no_row_iff hi, exists_rowDecode_eq_ok_iff hi, not_and_or, not_not]
    rfl
  · refine iff_of_true (fun ⟨i, h⟩ => hw ⟨i, opc_of_decode_eq_ok h⟩) (.inl fun r hr hm => ?_)
    obtain ⟨i, rfl⟩ := exists_row_eq_of_mem r hr
    exact hw ⟨i, (matches_row_iff.1 hm).1⟩

end Sys2Proof
end

section
/-! PROOFS. The encoding family, the assembler's text: the frequency literal, and the worked encodings. -/

namespace Sys2Proof.Machine

/-- Settles O6: over the common denominator `2 * den`, the value is the floor of one fraction. -/
theorem frequencyLiteralIsNearest : Obligations.FrequencyLiteralIsNearest := by
  intro hz hden
  have hfrac : (hz.num : ℚ) / hz.den * 2 ^ 16 + 1 / 2 =
      ((2 * hz.num * 2 ^ 16 + hz.den : ℤ) : ℚ) / ((2 * hz.den : ℕ) : ℚ) := by
    have : (hz.den : ℚ) ≠ 0 := by positivity
    push_cast
    field_simp
    ring
  rw [hfrac, Rat.floor_intCast_div_natCast, hzFixed, Nat.cast_mul, Nat.cast_ofNat]

/-- Settles O1: the texts and the words are computed, and decoding is the round trip of a well-formed command. -/
theorem workedEncodings : Obligations.WorkedEncodings := by
  unfold Obligations.WorkedEncodings
  intro row hrow
  have h : assembleLine row.1.toList = .command row.2.1 ∧ encode row.2.1 = row.2.2 ∧ row.2.1.wf = true := by
    revert row; decide
  obtain ⟨htext, hword, hwf⟩ := h
  exact ⟨htext, hword, hword ▸ decodeOfEncode row.2.1 hwf⟩

end Sys2Proof.Machine
end

section
/-! PROOFS. The SPI engine family, CFGIDLE and XFER as whole commands: what they answer where the configuration carries
their profile, and which it refuses (R106, R107, U1). -/

namespace Sys2Proof.Machine

variable {s : State} {c : Chan} {p : Profile} {ws : List Word}

/-- U1: a profile is switched off by its phase alone. -/
theorem profileAllowed_iff {cfg : Config} : profileAllowed cfg p = true ↔ cfg.allowCpha1 = true ∨ p.cpha = false := by
  simp [profileAllowed]

/-- R106: CFGIDLE with a profile that is not switched off. -/
theorem exec_cfgIdle_of_allowed (hp : profileAllowed s.cfg p = true) :
    exec (.cfgIdle p) s = .next (cfgIdleProc p s.accept).finish := by
  rw [exec, execCfgIdle, if_pos hp]; rfl

theorem exec_cfgIdle_of_not_allowed (hp : ¬ profileAllowed s.cfg p = true) :
    exec (.cfgIdle p) s = .refused .profileSwitchedOff := by
  rw [exec, execCfgIdle, if_neg hp]

theorem exec_xfer_of_not_allowed (h : (Instr.xfer c p ws).legalIn s.cfg = true)
    (hp : ¬ profileAllowed s.cfg p = true) : exec (.xfer c p ws) s = .refused .profileSwitchedOff := by
  rw [exec, execXfer, if_pos h, if_neg hp]

/-- R106: neither CFGIDLE's lines nor the switch on its profile look at the bit order. -/
theorem exec_cfgIdle_lsbf (b : Bool) : exec (.cfgIdle { p with lsbf := b }) s = exec (.cfgIdle p) s := rfl

/-- Settles O14: accepted or rejected, the lines of CFGIDLE are those of the idle configuration. -/
theorem cfgIdleResult : Obligations.CfgIdleResult := by
  intro p s hp
  rw [exec_cfgIdle_of_allowed hp]
  refine ⟨fun hready => ?_, fun hfail => ?_⟩
  · rw [cfgIdleProc_ready (s := s.accept) p hready]; rfl
  · rw [cfgIdleProc_rejected (s := s.accept) p hfail]; rfl

/-- Settles O15: with ready ports the lines of XFER are one transfer of the words it sends. -/
theorem xferResult : Obligations.XferResult := by
  intro c p ws s hlegal hp hbus hready
  have hlen : (ws.map (sentWord s.cfg p)).length = ws.length := List.length_map _
  rw [exec_xfer_of_legalIn hlegal hp, transfer_ready (s := s.accept) c p (sentWords_ne_nil hlegal) hbus
    (by rw [hlen]; exact hready)]
  rfl

/-- Settles O23: the phase decides whether the two commands are refused, and no other field of the profile does. -/
theorem switchedOffProfilesRefused : Obligations.SwitchedOffProfilesRefused := by
  intro c p ws s
  refine ⟨fun hoff hcpha => ?_, fun hon => ?_, exec_cfgIdle_lsbf⟩
  · have hp : ¬ profileAllowed s.cfg p = true := by simp [profileAllowed_iff, hoff, hcpha]
    exact ⟨exec_cfgIdle_of_not_allowed hp, fun hlegal => exec_xfer_of_not_allowed hlegal hp⟩
  · have hp := profileAllowed_iff.2 hon
    exact ⟨⟨_, exec_cfgIdle_of_allowed hp⟩, fun hlegal => ⟨_, exec_xfer_of_legalIn hlegal hp⟩⟩

end Sys2Proof.Machine
end

section
/-! PROOFS. The SPI engine family, the levels of a transfer as a chip reads them (R110 to R112): the frames of its words,
with the clock idle at entry and with the clock at the wrong level, and the data line around the sampling edges. -/

namespace Sys2Proof.Machine

variable {cfg : Config} {c : Chan} {p : Profile}

/-! ### The frames of a transfer (R111 (a), (c)) -/

/-- R107, R110: a transfer entered with its chip-select high and the clock idle has its words as frames, in order. -/
theorem frameDecode_words (h : Carries cfg) (ws : List Word) {l : Lines} (hc : l.cs c = true) (hs : l.sck = p.cpol) :
    frameDecode cfg (pack cfg l :: (wordsLevels cfg c p l ws).map (pack cfg)) c p.cpol p.cpha =
      ws.map (wordBits · p.lsbf) := by
  obtain ⟨m, hm⟩ := frameLoop_words h ws l [] hc hs
  simpa [frameDecode, frameLoop] using hm

theorem map_frameWord_wordBits (ws : List Word) (lsbf : Bool) :
    (ws.map (wordBits · lsbf)).map (frameWord lsbf) = ws.map some := by
  simp [frameWord_wordBits]

/-- R107, R110: a transfer has no frame on another channel. -/
theorem frameDecode_words_ne (h : Carries cfg) (ws : List Word) {c' : Chan} {l : Lines} (hne : c' ≠ c)
    (hc : l.cs c' = true) (cpol cpha : Bool) :
    frameDecode cfg (pack cfg l :: (wordsLevels cfg c p l ws).map (pack cfg)) c' cpol cpha = [] :=
  frameLoop_deselected h cpol cpha c' _ l hc fun _ hm => (wordsLevels_cs_ne hne ws hm).trans hc

/-- Settles O20: the events of a successful XFER are those of its levels, which a chip decodes. -/
theorem xferDeliversWords : Obligations.XferDeliversWords := by
  intro c p ws s hinv hbusy hlegal hp hbus hready hsck
  have hcs := noneLow_iff.1 (hinv.lines_idle hbusy hbus).1
  have hcarries := carries_of_linesDistinct (Config.linesDistinct_of_wf hinv.cfg_wf)
  refine ⟨_, levelsEvents s.cfg (wordsLevels s.cfg c p s.lines (ws.map (sentWord s.cfg p))),
    xferResult c p ws s hlegal hp hbus hready, rfl, ?_⟩
  rw [eventStates_levelsEvents]
  refine ⟨?_, fun c' hne => frameDecode_words_ne hcarries _ hne (hcs c')⟩
  rw [frameDecode_words hcarries _ (hcs c) hsck, map_frameWord_wordBits]
  exact ⟨rfl, fun horder => by rw [sentWords_eq horder]⟩

/-! ### The clock at the wrong level at entry (R112) -/

/-- R110, R112: a bit slot entered with the clock active inside a frame has no leading edge, so with `CPHA = 0` its bit
is not sampled. -/
theorem frameLoop_slot_of_active (h : Carries cfg) (l : Lines) (b : Bool) (bits : List Bool) (rest : List LineState)
    (hc : l.cs c = false) (hs : l.sck = activeLevel p) :
    frameLoop cfg c p.cpol p.cpha (pack cfg l) (some bits) ((slotLevels p l b).map (pack cfg) ++ rest) =
      frameLoop cfg c p.cpol p.cpha (pack cfg { l with sck := idleLevel p, sdo := b })
        (some (if p.cpha then bits ++ [b] else bits)) rest := by
  cases hp : p.cpha with
  | true => simp [slotLevels, hp, frameLoop_cons h, hc, hs, samplesOn, activeLevel, idleLevel]
  | false => simp [slotLevels, hp, frameLoop_cons h, hc, hs, samplesOn, activeLevel, idleLevel]

/-- R104, R110: the last two levels of a word close its frame. -/
theorem frameLoop_release (h : Carries cfg) (l : Lines) (b : Bool) (bits : List Bool) (rest : List LineState) :
    frameLoop cfg c p.cpol p.cpha (pack cfg { l.setCs c false with sck := idleLevel p, sdo := b }) (some bits)
      (pack cfg { l.setCs c true with sck := idleLevel p, sdo := b } :: pack cfg (wordEnd cfg c p l) :: rest) =
      bits :: frameLoop cfg c p.cpol p.cpha (pack cfg (wordEnd cfg c p l)) none rest := by
  simp [frameLoop_cons h]

/-- R103: the bits of a word are its first, those between, and its last. -/
theorem wordBits_first_last (w : Word) (lsbf : Bool) :
    wordBits w lsbf =
      slotBit w 0 lsbf :: (((List.range' 1 14).map fun j => slotBit w j lsbf) ++ [slotBit w 15 lsbf]) := rfl

/-- R110, R112: a word entered with no frame open, its chip-select high and the clock active, is one frame: with
`CPHA = 0` of its bits after the first. -/
theorem frameLoop_word_of_active (h : Carries cfg) (l : Lines) (w : Word) (rest : List LineState) (hc : l.cs c = true)
    (hs : l.sck = activeLevel p) :
    frameLoop cfg c p.cpol p.cpha (pack cfg l) none ((wordLevels cfg c p l w).map (pack cfg) ++ rest) =
      (if p.cpha then wordBits w p.lsbf else (wordBits w p.lsbf).tail) ::
        frameLoop cfg c p.cpol p.cpha (pack cfg (wordEnd cfg c p l)) none rest := by
  rw [wordLevels, wordBits_first_last, slotsLevels]
  simp only [List.map_append, List.append_assoc, List.map_cons, List.map_nil, List.cons_append, List.nil_append]
  rw [frameLoop_cons h, if_pos (by simp [hc]), frameLoop_slot_of_active h _ _ _ _ (by simp) (by simpa using hs),
    frameLoop_slots h _ _ _ _ _ (by simp) rfl, frameLoop_release h]
  cases p.cpha <;> simp

/-- Settles O22: the first bit slot finds the clock active and leaves it idle for the others. -/
theorem wrongClockLevelMissesFirstBit : Obligations.WrongClockLevelMissesFirstBit := by
  intro cfg c p l w hwf hnone hsck
  have hcarries := carries_of_linesDistinct (Config.linesDistinct_of_wf hwf)
  have hactive : l.sck = activeLevel p := Bool.eq_not_of_ne hsck
  refine ⟨?_, rfl⟩
  have hframe := frameLoop_word_of_active hcarries l w [] (noneLow_iff.1 hnone c) hactive
  rw [eventStates_levelsEvents, frameDecode]
  simpa [frameLoop] using hframe

/-! ### The data line around the sampling edges (R111 (b), (d), (e)) -/

/-- R111 (d), for two successive levels: the clock moves only with the chip-select low and with the data line still, and
the data line is still after a sampling edge, which leaves the clock at the level no sampling edge starts from. -/
def Lines.KeepsData (c : Chan) (p : Profile) (a b : Lines) : Prop :=
  (a.sck ≠ b.sck → b.cs c = false ∧ a.sdo = b.sdo) ∧
    (a.cs c = false → samplesOn p.cpol p.cpha a.sck = false → a.sdo = b.sdo)

section
variable {a b d l : Lines}

theorem Lines.keepsData_of_sdo (hsdo : a.sdo = b.sdo) (h : a.sck ≠ b.sck → b.cs c = false) : a.KeepsData c p b :=
  ⟨fun hsck => ⟨h hsck, hsdo⟩, fun _ _ => hsdo⟩

theorem Lines.keepsData_of_sck (hsck : a.sck = b.sck)
    (h : a.cs c = true ∨ samplesOn p.cpol p.cpha a.sck = true) : a.KeepsData c p b :=
  ⟨fun hne => absurd hsck hne, fun hc hs => by simp [hc, hs] at h⟩

/-- R105: the clock is at the level a sampling edge starts from, or at the one it ends at. -/
theorem samplesOn_of_ne {cpol cpha x y : Bool} (hne : x ≠ y) (h : samplesOn cpol cpha x = true) :
    samplesOn cpol cpha y = false := by
  revert cpol cpha x y; decide

/-- R111 (d): the data line is still from the write before a sampling edge to the write after it. -/
theorem Lines.KeepsData.sdo_eq (hab : a.KeepsData c p b) (hbd : b.KeepsData c p d) (hne : a.sck ≠ b.sck)
    (hs : samplesOn p.cpol p.cpha a.sck = true) : a.sdo = b.sdo ∧ b.sdo = d.sdo := by
  obtain ⟨hcs, hsdo⟩ := hab.1 hne
  exact ⟨hsdo, hbd.2 hcs (samplesOn_of_ne hne hs)⟩

/-- R104, R105: a bit slot entered with the clock idle moves the data line where no sampled bit needs it. -/
theorem slotLevels_keepsData (x : Bool) (hc : l.cs c = false) (hs : l.sck = p.cpol) :
    List.IsChain (Lines.KeepsData c p) (l :: slotLevels p l x) := by
  have hidle : Lines.KeepsData c p { l with sck := activeLevel p, sdo := x }
      { l with sck := idleLevel p, sdo := x } := Lines.keepsData_of_sdo rfl fun _ => by simpa using hc
  cases h : p.cpha with
  | true =>
    simp only [slotLevels, h, if_true, List.isChain_cons_cons]
    refine ⟨Lines.keepsData_of_sdo rfl fun _ => by simpa using hc, Lines.keepsData_of_sck rfl (.inr ?_), hidle,
      .singleton _⟩
    simp [samplesOn, h, activeLevel]
  | false =>
    simp only [slotLevels, h, Bool.false_eq_true, if_false, List.isChain_cons_cons]
    refine ⟨Lines.keepsData_of_sck rfl (.inr ?_), Lines.keepsData_of_sdo rfl fun _ => by simpa using hc, hidle,
      .singleton _⟩
    simp [samplesOn, h, hs]

theorem slotsLevels_keepsData : ∀ (bs : List Bool) {l : Lines}, l.cs c = false → l.sck = p.cpol →
    List.IsChain (Lines.KeepsData c p) (l :: slotsLevels p l bs)
  | [], _, _, _ => .singleton _
  | x :: bs, _, hc, hs => isChain_cons_append_of_getLastD (slotLevels_keepsData x hc hs) <| by
      rw [slotLevels_last]; exact slotsLevels_keepsData bs (by simpa using hc) rfl

/-- R104: a word entered with the clock idle moves its chip-select with the clock idle, and the data line to idle with
its chip-select high. -/
theorem wordLevels_keepsData (w : Word) (hs : l.sck = p.cpol) :
    List.IsChain (Lines.KeepsData c p) (l :: wordLevels cfg c p l w) := by
  have hselect : l.KeepsData c p (l.setCs c false) := Lines.keepsData_of_sdo (by simp) fun _ => by simp
  rw [wordLevels, List.append_assoc]
  refine isChain_cons_append_of_getLastD (List.isChain_pair.2 hselect) ?_
  refine isChain_cons_append_of_getLastD (slotsLevels_keepsData _ (by simp) (by simpa using hs)) ?_
  rw [wordBits_last, slotsLevels_last]
  simp only [List.isChain_cons_cons]
  exact ⟨Lines.keepsData_of_sdo rfl fun h => absurd rfl h, Lines.keepsData_of_sck rfl (.inl (by simp)), .singleton _⟩

theorem wordsLevels_keepsData : ∀ (ws : List Word) {l : Lines}, l.sck = p.cpol →
    List.IsChain (Lines.KeepsData c p) (l :: wordsLevels cfg c p l ws)
  | [], _, _ => .singleton _
  | w :: ws, _, hs => isChain_cons_append_of_getLastD (wordLevels_keepsData w hs) <| by
      rw [wordLevels_last]; exact wordsLevels_keepsData ws rfl

/-- R104, R111 (e): after a word entered with no chip-select low all lines are idle. -/
theorem wordEnd_of_noneLow (h : l.noneLow = true) : wordEnd cfg c p l = Lines.idle cfg p.cpol := by
  have h0 : l.cs0 = true := noneLow_iff.1 h .cs0
  have h1 : l.cs1 = true := noneLow_iff.1 h .cs1
  have h2 : l.cs2 = true := noneLow_iff.1 h .cs2
  cases c <;> simp [wordEnd, Lines.setCs, Lines.idle, idleLevel, h0, h1, h2]

/-- R107: the last level of a transfer with a word is the end of a word. -/
theorem wordsLevels_getLast? {ws : List Word} (l : Lines) (hne : ws ≠ []) :
    (wordsLevels cfg c p l ws).getLast? = some (wordEnd cfg c p l) := by
  have hlevels : wordsLevels cfg c p l ws ≠ [] := by
    rw [← List.length_pos_iff, wordsLevels_length]
    have := List.length_pos_iff.2 hne
    omega
  have hlast := wordsLevels_last cfg c p ws l l hne
  rw [List.getLastD_eq_getLast?, List.getLast?_eq_some_getLast hlevels, Option.getD_some] at hlast
  rw [List.getLast?_eq_some_getLast hlevels, hlast]
end

/-- Settles O21: a transfer is a chain of levels that keep the data line still around a sampling edge. -/
theorem transferKeepsTheBus : Obligations.TransferKeepsTheBus := by
  intro cfg c p l ws hnone hsck hne
  refine ⟨fun m hm c' hc => ?_, fun k a b d ha hb hd hedge hs => ?_, ?_⟩
  · rw [wordsLevels_cs_ne hc ws hm]; exact noneLow_iff.1 hnone c'
  · obtain ⟨hk, rfl⟩ := List.getElem?_eq_some_iff.1 ha
    obtain ⟨hk', rfl⟩ := List.getElem?_eq_some_iff.1 hb
    obtain ⟨hk'', rfl⟩ := List.getElem?_eq_some_iff.1 hd
    have hchain := wordsLevels_keepsData (cfg := cfg) (c := c) ws hsck
    exact (hchain.getElem k hk').sdo_eq (hchain.getElem (k + 1) hk'') hedge hs
  · rw [wordsLevels_getLast? l hne, wordEnd_of_noneLow hnone]; rfl

end Sys2Proof.Machine
end

section
/-! PROOFS. The AD9833 family, what a configuration satisfies (R6, R130, R133, R148). -/

namespace Sys2Proof

variable {cfg : Config}

theorem Config.mclkHz_pos_of_wf (h : cfg.wf = true) : 0 < cfg.mclkHz := by
  simp only [Config.wf, Bool.and_eq_true, decide_eq_true_eq] at h; tauto

theorem Config.tagsWf_of_wf (h : cfg.wf = true) : cfg.tagsWf = true := by
  simp only [Config.wf, Bool.and_eq_true] at h; tauto

/-- R130: the AD9833 driver's clock idles high, and its chip samples on the first edge. -/
theorem Config.adProfile_of_wf (h : cfg.wf = true) : cfg.adProfile.cpol = true ∧ cfg.adProfile.cpha = false := by
  simp only [Config.wf, Bool.and_eq_true, Bool.not_eq_true'] at h; tauto

end Sys2Proof
end

section
/-! PROOFS. The AD9833 encoder family: the divider as a rounded quotient (R131, R149), and the two words that carry it
(R132, R133). -/

namespace Sys2Proof.Machine

/-! ### The rounded quotient (R131) -/

/-- R131: the rounded quotient over the numerator `F * 2^29` and half the denominator, `MCLK_HZ * 2^FREQ_F`. -/
theorem freqReg_eq (cfg : Config) (f : Nat) : freqReg cfg f =
    (f * 2 ^ 29 + cfg.mclkHz * 2 ^ cfg.freqF - if cfg.tieUp then 0 else 1) / (2 * (cfg.mclkHz * 2 ^ cfg.freqF)) := by
  rw [freqReg, pow_succ]
  congr 1
  ring

/-- Settles O24: over the common denominator `MCLK_HZ * 2^(FREQ_F + 1)`, the value is the floor of one fraction. -/
theorem freqRegIsRounded : Obligations.FreqRegIsRounded := by
  intro cfg f hclk htie
  have hfrac : (f : ℚ) / 2 ^ cfg.freqF * 2 ^ 28 / cfg.mclkHz + 1 / 2 =
      ((f * 2 ^ 29 + cfg.mclkHz * 2 ^ cfg.freqF : ℕ) : ℚ) / ((2 * (cfg.mclkHz * 2 ^ cfg.freqF) : ℕ) : ℚ) := by
    push_cast
    field_simp
    ring
  rw [hfrac, Rat.floor_natCast_div_natCast, freqReg_eq, htie, if_pos rfl, Nat.sub_zero, Int.natCast_ediv]

/-- R149: whichever way ties go, the register value times the denominator is within half the denominator of the
numerator. -/
theorem freqReg_nearest {cfg : Config} (h : 0 < cfg.mclkHz) (f : Nat) :
    f * 2 ^ 29 ≤ 2 * (cfg.mclkHz * 2 ^ cfg.freqF) * freqReg cfg f + cfg.mclkHz * 2 ^ cfg.freqF ∧
      2 * (cfg.mclkHz * 2 ^ cfg.freqF) * freqReg cfg f ≤ f * 2 ^ 29 + cfg.mclkHz * 2 ^ cfg.freqF := by
  have hd : 0 < cfg.mclkHz * 2 ^ cfg.freqF := by positivity
  rw [freqReg_eq]
  generalize cfg.mclkHz * 2 ^ cfg.freqF = d at hd ⊢
  generalize f * 2 ^ 29 = n
  have he : (if cfg.tieUp then 0 else 1) ≤ 1 := by split <;> decide
  generalize (if cfg.tieUp then 0 else 1) = e at he ⊢
  have hdiv := Nat.div_add_mod (n + d - e) (2 * d)
  have hmod := Nat.mod_lt (n + d - e) (y := 2 * d) (by omega)
  omega

/-- R149: a frequency up to half the master clock has a register value up to half of `2^28`. -/
theorem freqReg_le {cfg : Config} {f : Nat} (h : 0 < cfg.mclkHz) (hf : 2 * f ≤ cfg.mclkHz * 2 ^ cfg.freqF) :
    freqReg cfg f ≤ 2 ^ 27 := by
  rw [freqReg_eq]
  have hd : 0 < cfg.mclkHz * 2 ^ cfg.freqF := by positivity
  generalize cfg.mclkHz * 2 ^ cfg.freqF = d at hd hf ⊢
  refine Nat.lt_succ_iff.1 ((Nat.div_lt_iff_lt_mul (by omega)).2 ?_)
  omega

/-- Settles O25: both bounds are those of the quotient, divided by `2^29 * 2^FREQ_F`. -/
theorem frequencyAccuracy : Obligations.FrequencyAccuracy := by
  intro cfg f hclk
  refine ⟨?_, fun hf => freqReg_le hclk ?_⟩
  · obtain ⟨hlow, hhigh⟩ := freqReg_nearest hclk f
    have hlow' : (f : ℚ) * 2 ^ 29 ≤
        2 * (cfg.mclkHz * 2 ^ cfg.freqF) * freqReg cfg f + cfg.mclkHz * 2 ^ cfg.freqF := by exact_mod_cast hlow
    have hhigh' : 2 * (cfg.mclkHz * 2 ^ cfg.freqF) * freqReg cfg f ≤
        (f : ℚ) * 2 ^ 29 + cfg.mclkHz * 2 ^ cfg.freqF := by exact_mod_cast hhigh
    have hdiff : (freqReg cfg f : ℚ) * cfg.mclkHz / 2 ^ 28 - (f : ℚ) / 2 ^ cfg.freqF =
        (2 * (cfg.mclkHz * 2 ^ cfg.freqF) * freqReg cfg f - f * 2 ^ 29) / (2 ^ 29 * 2 ^ cfg.freqF) := by
      field_simp
    have hhalf : (cfg.mclkHz : ℚ) / 2 ^ 29 = cfg.mclkHz * 2 ^ cfg.freqF / (2 ^ 29 * 2 ^ cfg.freqF) := by
      field_simp
    rw [hdiff, hhalf, abs_div, abs_of_pos (a := (2 ^ 29 * 2 ^ cfg.freqF : ℚ)) (by positivity)]
    gcongr
    exact abs_le.2 ⟨by linarith, by linarith⟩
  · rw [div_le_div_iff₀ (by positivity) (by positivity)] at hf
    rw [mul_comm]
    exact_mod_cast hf

/-- Settles O26: the numerator is an odd multiple of `2^22`, the denominator an even one, so no operand is a tie and 1
less in the numerator does not change the quotient. -/
theorem noTieAtDefault : Obligations.NoTieAtDefault := by
  intro f
  simp only [freqReg, Config.default, if_true, Bool.false_eq_true, if_false]
  omega

/-! ### The words of the register value (R132, R133) -/

theorem freqLo14_toNat (cfg : Config) (f : Nat) : (freqLo14 cfg f).toNat = freqReg cfg f % 2 ^ 14 := by
  rw [freqLo14, freqReg28, BitVec.extractLsb'_toNat, BitVec.toNat_ofNat, Nat.shiftRight_zero]
  exact Nat.mod_mod_of_dvd _ (Nat.pow_dvd_pow 2 (by decide))

/-- R132: without the reduction to 28 bits, which a register value below `2^28` is not changed by. -/
theorem freqHi14_toNat {cfg : Config} {f : Nat} (h : freqReg cfg f < 2 ^ 28) :
    (freqHi14 cfg f).toNat = freqReg cfg f / 2 ^ 14 := by
  rw [freqHi14, freqReg28, BitVec.extractLsb'_toNat, BitVec.toNat_ofNat, Nat.mod_eq_of_lt h,
    Nat.shiftRight_eq_div_pow, Nat.mod_eq_of_lt]
  exact Nat.div_lt_of_lt_mul h

/-- R133: the two tags, in either order. -/
theorem freqTags_of_wf {cfg : Config} (h : cfg.wf = true) :
    cfg.freqTag0 = 0x4000#16 ∧ cfg.freqTag1 = 0x8000#16 ∨ cfg.freqTag0 = 0x8000#16 ∧ cfg.freqTag1 = 0x4000#16 := by
  simpa [Config.tagsWf] using Config.tagsWf_of_wf h

theorem freqTag_of_wf {cfg : Config} (h : cfg.wf = true) (ch : Int) :
    freqTag cfg ch = 0x4000#16 ∨ freqTag cfg ch = 0x8000#16 := by
  rw [freqTag]
  split_ifs
  · exact (freqTags_of_wf h).imp And.left And.left
  · exact (freqTags_of_wf h).symm.imp And.right And.right

theorem freqTag_ne {cfg : Config} (h : cfg.wf = true) : freqTag cfg 0 ≠ freqTag cfg 1 := by
  rcases freqTags_of_wf h with ⟨h0, h1⟩ | ⟨h0, h1⟩ <;> simp [freqTag, h0, h1]

/-- R133: a tag and fourteen bits do not overlap. -/
theorem toNat_tag_or {tag : Word} (h : tag = 0x4000#16 ∨ tag = 0x8000#16) (x : BitVec 14) :
    (tag ||| x.setWidth 16).toNat = tag.toNat + x.toNat := by
  have hx := x.isLt
  rw [BitVec.toNat_or, BitVec.toNat_setWidth_of_le (by decide)]
  rcases h with rfl | rfl
  · exact (Nat.two_pow_add_eq_or_of_lt hx 1).symm
  · exact (Nat.two_pow_add_eq_or_of_lt hx 2).symm

/-- Settles O27: the two halves of the register value are the fourteen bits under the tag. -/
theorem freqWordsCarryRegister : Obligations.FreqWordsCarryRegister := by
  intro cfg ch f hwf hreg
  have htag := freqTag_of_wf hwf ch
  refine ⟨?_, ?_, htag, freqTag_ne hwf⟩
  · rw [freqLoWord, toNat_tag_or htag, freqLo14_toNat]
  · rw [freqHiWord, toNat_tag_or htag, freqHi14_toNat hreg]

end Sys2Proof.Machine
end

section
/-! PROOFS. The AD9833 driver family, the fields of the control image (R27, R137). -/

namespace Sys2Proof.Machine

variable {l : CtrlLayout}

/-- R27: the ten named fields have ten positions. -/
theorem ctrlPos_injective (h : l.wf = true) : Function.Injective (ctrlPos l) := by
  rw [CtrlLayout.wf, Bool.and_eq_true, decide_eq_true_eq] at h
  have hnodup : ([.b28, .hlb, .fselect, .pselect, .reset, .sleep1, .sleep12, .opbiten, .div2, .mode].map
    (ctrlPos l)).Nodup := h.1
  intro f g hfg
  exact List.inj_on_of_nodup_map hnodup (by cases f <;> decide) (by cases g <;> decide) hfg

/-- R27: the mask of a field covers its position and that of no other field. -/
theorem ctrlGet_ctrlBit (h : l.wf = true) (f g : CtrlField) : ctrlGet l f (ctrlBit l g) = decide (f = g) := by
  rw [ctrlGet, ctrlBit, ← BitVec.twoPow_eq, BitVec.getLsbD_twoPow, decide_eq_true (ctrlPos l g).isLt, Bool.true_and,
    decide_eq_decide, ← Fin.ext_iff, (ctrlPos_injective h).eq_iff, eq_comm]

/-- R27, R148: a field write is read back from the field, and every other field is as it was. -/
theorem ctrlGet_ctrlPut (h : l.wf = true) (f g : CtrlField) (b : Bool) (v : Word) :
    ctrlGet l f (ctrlPut l g b v) = if f = g then b else ctrlGet l f v := by
  have hbit := ctrlGet_ctrlBit h f g
  rw [ctrlGet] at hbit ⊢
  cases b with
  | true =>
    rw [ctrlPut, if_pos rfl, BitVec.getLsbD_or, hbit]
    by_cases hfg : f = g <;> simp [hfg, ctrlGet]
  | false =>
    rw [ctrlPut, if_neg (by decide), BitVec.getLsbD_and, BitVec.getLsbD_not, hbit]
    by_cases hfg : f = g <;> simp [hfg, ctrlGet]

/-- R27: what a field held before it was set does not show once it is cleared. -/
theorem ctrlPut_false_true (f : CtrlField) (v : Word) :
    ctrlPut l f false (ctrlPut l f true v) = ctrlPut l f false v := by
  ext j hj
  simp only [ctrlPut, Bool.false_eq_true, if_false, if_true, BitVec.getElem_and, BitVec.getElem_or, BitVec.getElem_not]
  grind

end Sys2Proof.Machine
end

section
/-! PROOFS. The AD9833 driver family, what its commands answer: those that touch no port, and the others with ready
ports (R138 to R145). -/

namespace Sys2Proof.Machine

variable {s : State}

/-! ### Commands without an event (R139, R147, R173) -/

/-- R139: the channel of an index is the one it numbers, and channel 0 for an index that numbers none. -/
theorem chanOfIndex_eq {i : Int} {c : Chan} (h : i = c.toBits.toNat ∨ (c = .cs0 ∧ ¬(0 ≤ i ∧ i ≤ 2))) :
    chanOfIndex i = c := by
  rcases h with rfl | ⟨rfl, hout⟩
  · cases c <;> rfl
  · rw [chanOfIndex, if_neg (by omega), if_neg (by omega)]

/-- Settles O11: the one line of the command writes the channel of the index. -/
theorem adSetCsResult : Obligations.AdSetCsResult := by
  intro imm s c himm
  rw [exec, execAdSetCs, chanOfIndex_eq himm]
  rfl

/-- Settles O13: the lines of each command are writes of constants to its driver's registers. -/
theorem detachResult : Obligations.DetachResult := fun _ => ⟨rfl, rfl, rfl, rfl⟩

/-! ### The image as it is sent (R136, R192) -/

theorem requireAd_of_att (h : s.ad.att = true) : requireAd s = .go s := by rw [requireAd, h]; rfl

/-- R136, R137: the image becomes `v` and is sent. -/
theorem writeReg_setAdCtrl (v : Word) (hb : s.busOk = true) (h : s.portsReady 51 51) :
    writeReg (s.setAdCtrl v) = .go (s.sentCtrl v) := writeReg_ready (s := s.setAdCtrl v) hb h

/-! ### Attach, begin, set frequency, set active register, set mode -/

/-- Settles O28: both commands are the idle configuration of their driver's profile, which alone can fail. -/
theorem attachResult : Obligations.AttachResult := by
  intro s
  refine ⟨fun hready => ⟨?_, ?_⟩, fun hfail => ⟨?_, ?_⟩⟩
  · rw [exec, execAdAttach, command, cfgIdleProc_ready (s := s.accept) _ hready]; rfl
  · rw [exec, execMcpAttach, command, cfgIdleProc_ready (s := s.accept) _ hready]; rfl
  · rw [exec, execAdAttach, command, cfgIdleProc_rejected (s := s.accept) _ hfail]; rfl
  · rw [exec, execMcpAttach, command, cfgIdleProc_rejected (s := s.accept) _ hfail]; rfl

/-- R140: AD.BEGIN with ready ports. -/
theorem exec_adBegin_ready (ha : s.ad.att = true) (hb : s.busOk = true) (h : s.portsReady 153 154) :
    exec .adBegin s = .next ((s.sentCtrl (ctrlPut s.cfg.ctrl .b28 true s.ad.ctrl)).resetDone.close .ok) := by
  have himage : writeReg (putCtrl .b28 true s.accept) =
      .go (s.accept.sentCtrl (ctrlPut s.cfg.ctrl .b28 true s.ad.ctrl)) :=
    writeReg_setAdCtrl (s := s.accept) _ hb (portsReady_mono h (by decide) (by decide))
  have hreset : resetSeq (s.accept.sentCtrl (ctrlPut s.cfg.ctrl .b28 true s.ad.ctrl)) =
      .go (s.accept.sentCtrl (ctrlPut s.cfg.ctrl .b28 true s.ad.ctrl)).resetDone :=
    resetSeq_ready hb (sent_ready h)
  rw [exec, execAdBegin, command, requireAd_of_att (s := s.accept) ha, Run.go_andThen, himage, Run.go_andThen, hreset]
  rfl

/-- Settles O29: the first word sets `B28`, and the reset sequence leaves the fields other than `RESET` alone. -/
theorem beginResult : Obligations.BeginResult := by
  intro s ha hb h t
  refine ⟨exec_adBegin_ready ha hb h, rfl, fun hwf => ?_⟩
  have hctrl : t.ad.ctrl = ctrlPut s.cfg.ctrl .reset false
      (ctrlPut s.cfg.ctrl .reset true (ctrlPut s.cfg.ctrl .b28 true s.ad.ctrl)) := rfl
  have hget := ctrlGet_ctrlPut (Config.ctrlWf_of_wf hwf)
  rw [hctrl]
  refine ⟨?_, ?_, fun f hb28 hreset => ?_⟩
  · simp [hget]
  · simp [hget]
  · simp [hget, hb28, hreset]

/-- Settles O31: past its two checks the command is one transfer of its three words. -/
theorem setFreqResult : Obligations.SetFreqResult := by
  intro ch f s hclk hch hf ha hb h
  have hargs : freqArgsOk s.accept.cfg ch f = true := (freqArgsOk_eq_true s.cfg ch f).2 ⟨hch, hf⟩
  have hsend : transfer (freqWords ch f s.accept) s.accept.ad.cs s.accept.cfg.adProfile s.accept =
      .go (s.accept.sent s.ad.cs s.cfg.adProfile (freqWords ch f s.accept)) :=
    transfer_ready (ws := freqWords ch f s.accept) _ _ (by simp [freqWords]) hb h
  rw [exec, execAdSetFreq, if_neg fun hfault => hclk.ne' hfault.1, command, setFreqProc, hargs, require_true,
    Run.go_andThen, requireAd_of_att (s := s.accept) ha, Run.go_andThen, hsend]
  rfl

/-- Settles O32: the command checks for the clock only where it would send the words, and else answers a next state. -/
theorem setFreqWithoutClockStops : Obligations.SetFreqWithoutClockStops := by
  intro ch f s
  have hiff : (s.cfg.mclkHz = 0 ∧ freqArgsOk s.cfg ch f ∧ s.ad.att ∧ s.busOk) ↔
      s.cfg.mclkHz = 0 ∧ (ch.toInt = 0 ∨ ch.toInt = 1) ∧ 0 ≤ freqOperand s.cfg f ∧ s.ad.att = true ∧
        s.busOk = true := by
    rw [freqArgsOk_eq_true, and_assoc]
  rw [exec, execAdSetFreq, ← hiff]
  split_ifs with h
  · exact iff_of_true rfl h
  · exact iff_of_false nofun h

/-- Settles O33: the image is sent with the field written, whether that changed it or not. -/
theorem setActResult : Obligations.SetActResult := by
  intro ch b s hch ha hb h v
  have hchan : isFreqChannel ch.toInt = true ∧ decide (ch.toInt = 1) = b := by cases b <;> simp [hch, isFreqChannel]
  obtain ⟨hok, hbit⟩ := hchan
  have himage : writeReg (putCtrl .fselect b s.accept) = .go (s.accept.sentCtrl v) :=
    writeReg_setAdCtrl (s := s.accept) _ hb h
  refine ⟨?_, fun hwf => ?_⟩
  · rw [exec, execAdSetAct, command, hok, require_true, Run.go_andThen, requireAd_of_att (s := s.accept) ha,
      Run.go_andThen, hbit, himage]
    rfl
  · have hget := ctrlGet_ctrlPut (Config.ctrlWf_of_wf hwf)
    exact ⟨by simp [v, hget], fun f hf => by simp [v, hget, hf]⟩

/-- R144: AD.SETMODE with ready ports. -/
theorem exec_adSetMode_ready (m : Mode) (ha : s.ad.att = true) (hb : s.busOk = true) (h : s.portsReady 51 51) :
    exec (.adSetMode m) s = .next ((s.sentCtrl (ctrlWithMode s.cfg.modes m s.ad.ctrl)).close .ok) := by
  rw [exec, execAdSetMode, command, setModeProc, requireAd_of_att (s := s.accept) ha, Run.go_andThen,
    writeReg_setAdCtrl (s := s.accept) _ hb h]
  rfl

/-- R145: AD.SHUTDOWN has the lines of AD.SETMODE OFF. -/
theorem exec_adShutdown (s : State) : exec .adShutdown s = exec (.adSetMode .off) s := rfl

/-- Settles O34: the image sent is the one with the mode's pattern. -/
theorem setModeResult : Obligations.SetModeResult := fun m s =>
  ⟨exec_adShutdown s, fun ha hb h =>
    ⟨exec_adSetMode_ready m ha hb h, (exec_adShutdown s).trans (exec_adSetMode_ready .off ha hb h)⟩⟩

/-! ### The mode field after AD.SETMODE (R144, R146) -/

theorem writeReg_frame (s : State) : (writeReg s).Holds fun _ t => BusFrame s t := (transfer_busEnds ..).frame

/-- R146: however AD.SETMODE ends, the image is the one with the mode's pattern. -/
theorem adSetMode_ctrl {t : State} {m : Mode} (h : exec (.adSetMode m) s = .next t) (ha : s.ad.att = true) :
    t.ad.ctrl = ctrlWithMode s.cfg.modes m s.ad.ctrl := by
  have hbody : body (.adSetMode m) s.accept = writeReg (s.accept.setAdCtrl (ctrlWithMode s.cfg.modes m s.ad.ctrl)) := by
    rw [body, setModeProc, requireAd_of_att (s := s.accept) ha]; rfl
  rw [eq_finish_body_of_exec h, hbody]
  exact (writeReg_frame _).finish (Q := fun u => u.ad.ctrl = _) (fun u hu => congrArg AdRegs.ctrl hu.ad)
    fun u hu => congrArg AdRegs.ctrl hu.ad

/-- R144: the bits outside the mode field are kept. -/
theorem ctrlWithMode_and_not_mask {cfg : Config} (h : cfg.wf = true) (m : Mode) (v : Word) :
    ctrlWithMode cfg.modes m v &&& ~~~cfg.modes.mask = v &&& ~~~cfg.modes.mask := by
  have hmask := modeBits_and_mask h m
  ext j hj
  have hj' := congrArg (·[j]) hmask
  simp only [ctrlWithMode, BitVec.getElem_and, BitVec.getElem_or, BitVec.getElem_not] at hj' ⊢
  grind

/-- Settles O35: each command writes its pattern over the mode field and keeps the rest, sent or not. -/
theorem modesExcludeEachOther : Obligations.ModesExcludeEachOther := by
  intro x y s t u hwf ha ht hu
  obtain ⟨hcfg, -, -, -, hatt, -⟩ := registersHaveTheirWriters _ _ _ ht
  have hta : t.ad.att = true := (hatt nofun nofun).trans ha
  rw [adSetMode_ctrl hu hta, adSetMode_ctrl ht ha, hcfg]
  refine ⟨ctrlWithMode_and_mask hwf y _, ?_⟩
  rw [ctrlWithMode_and_not_mask hwf, ctrlWithMode_and_not_mask hwf]

end Sys2Proof.Machine
end

section
/-! PROOFS. The AD9833 driver family, a reset sequence that the adapter cuts short (R137, R141, R146). -/

namespace Sys2Proof.Machine

variable {s : State}

/-- R55, R108: levels sent with request `k` failing. Unlike `sendLevels_rejected` this asks for `k` delays only, not for
one more: a reset sequence has used one up in its hold. -/
theorem sendLevels_stop {ls : List Lines} {k : Nat} (hk : k < ls.length) (hfail : s.answers[k]? = some .failure)
    (h : s.portsReady k k) : sendLevels ls s = .stop ((s.played (ls.take k)).rejected ls[k]) := by
  have hlen : (ls.take k).length = k := List.length_take_of_le hk.le
  have hhead : (s.played (ls.take k)).answers.head? = some .failure := by
    rw [State.played_answers, hlen, List.head?_drop, hfail]
  have hsplit : ls = ls.take k ++ ls[k] :: ls.drop (k + 1) := by rw [List.getElem_cons_drop, List.take_append_drop]
  have hrun : sendLevels (ls.take k ++ ls[k] :: ls.drop (k + 1)) s = .stop ((s.played (ls.take k)).rejected ls[k]) := by
    rw [sendLevels_append, sendLevels_ready _ (by rwa [hlen]), Run.go_andThen, sendLevels, stepLines_rejected _ hhead,
      Run.stop_andThen]
  rwa [← hsplit] at hrun

/-- What a failed request leaves of the command begun in `s`: its status, a bad bus, and the driver as it was. -/
structure Faulted (s t : State) : Prop where
  status : t.status = .gpioFault
  busOk : t.busOk = false
  busy : t.busy = false
  ad : t.ad = s.ad

/-- R136, R193: a write of the image with request `k` of its 51 failing. -/
theorem writeReg_faulted {k : Nat} (hb : s.busOk = true) (hk : k < 51) (hfail : s.answers[k]? = some .failure)
    (h : s.portsReady k k) : ∃ t, writeReg s = .stop t ∧ Faulted s t := by
  have hlen : (ctrlLevels s).length = 51 := wordsLevels_length ..
  have hsends := (transferWords_sends s.ad.cs s.cfg.adProfile [s.ad.ctrl] 0 s).1
  rw [← ctrlLevels, sendLevels_stop (hlen ▸ hk) hfail h] at hsends
  rw [writeReg, transfer, hb, require_true, Run.go_andThen]
  cases hr : transferWords s.ad.cs s.cfg.adProfile 0 [s.ad.ctrl] s with
  | go t => rw [hr] at hsends; cases hsends
  | stop t =>
    rw [hr] at hsends
    have hforget := Run.stop.inj hsends
    exact ⟨t, rfl, congrArg State.status hforget, congrArg State.busOk hforget, congrArg State.busy hforget,
      (congrArg State.ad hforget :)⟩

/-- R137: the state in which the second write of a reset sequence is begun, the first one and the hold having ended. -/
def State.resetHeld (s : State) : State :=
  ((((s.sentCtrl (ctrlPut s.cfg.ctrl .reset true s.ad.ctrl)).setAdRst true).waited s.cfg.tResetUs).setAdCtrl
    (ctrlPut s.cfg.ctrl .reset false (ctrlPut s.cfg.ctrl .reset true s.ad.ctrl)))

theorem resetSeq_of_resetHeld (hb : s.busOk = true) (h : s.portsReady 51 52) :
    resetSeq s = (writeReg s.resetHeld).andThen fun t => .go (t.setAdRst false) := by
  have hfirst : writeReg (putCtrl .reset true s) = .go (s.sentCtrl (ctrlPut s.cfg.ctrl .reset true s.ad.ctrl)) :=
    writeReg_setAdCtrl _ hb (portsReady_mono h le_rfl (by decide))
  have hwait : (s.sentCtrl (ctrlPut s.cfg.ctrl .reset true s.ad.ctrl)).portsReady 0 1 := sent_ready h
  rw [resetSeq, hfirst, Run.go_andThen,
    delay_ready (s := (s.sentCtrl (ctrlPut s.cfg.ctrl .reset true s.ad.ctrl)).setAdRst true) _ hwait, Run.go_andThen]
  rfl

theorem resetHeld_answers : s.resetHeld.answers = s.answers.drop 51 := by
  simp [State.resetHeld, State.sentCtrl, State.sent, State.waited, wordsLevels_length]

theorem resetHeld_waits : s.resetHeld.waits = s.waits.drop 52 := by
  simp [State.resetHeld, State.sentCtrl, State.sent, State.waited, wordsLevels_length]

theorem resetHeld_ad : s.resetHeld.ad =
    { s.ad with rst := true, ctrl := ctrlPut s.cfg.ctrl .reset false s.ad.ctrl } := by
  rw [← ctrlPut_false_true]; rfl

theorem resetHeld_ready {n : Nat} (h : s.portsReady (51 + n) (52 + n)) : s.resetHeld.portsReady n n :=
  (portsReady_congr resetHeld_answers.symm resetHeld_waits.symm).1 (portsReady_add.1 h).2

/-- R146: a reset sequence whose first word is cut short. -/
theorem resetSeq_faulted_first {k : Nat} (hb : s.busOk = true) (hk : k < 51) (h : s.failsAt k) :
    ∃ t, resetSeq s = .stop t ∧ Faulted (putCtrl .reset true s) t := by
  obtain ⟨hfail, hready⟩ := h
  obtain ⟨t, ht, hfault⟩ := writeReg_faulted (s := putCtrl .reset true s) hb hk hfail
    (portsReady_mono hready le_rfl (Nat.le_succ k))
  exact ⟨t, by rw [resetSeq, ht, Run.stop_andThen], hfault⟩

/-- R146: a reset sequence whose second word is cut short. -/
theorem resetSeq_faulted_second {k : Nat} (hb : s.busOk = true) (hk : k < 51) (h : s.failsAt (51 + k)) :
    ∃ t, resetSeq s = .stop t ∧ Faulted s.resetHeld t := by
  obtain ⟨hfail, hready⟩ := h
  have hfail' : s.resetHeld.answers[k]? = some .failure := by rw [resetHeld_answers, List.getElem?_drop, hfail]
  have hready' : s.resetHeld.portsReady k k := resetHeld_ready (portsReady_mono hready le_rfl (by omega))
  obtain ⟨t, ht, hfault⟩ := writeReg_faulted (s := s.resetHeld) hb hk hfail' hready'
  have hfirst : s.portsReady 51 52 := portsReady_mono hready (by omega) (by omega)
  exact ⟨t, by rw [resetSeq_of_resetHeld hb hfirst, ht, Run.stop_andThen], hfault⟩

/-- R141: attached, AD.RESET is the reset sequence. -/
theorem exec_adReset_of_att (ha : s.ad.att = true) : exec .adReset s = .next (resetSeq s.accept).finish := by
  rw [exec, execAdReset, command, requireAd_of_att (s := s.accept) ha, Run.go_andThen]

/-- Settles O30: the request that fails is one of the first word, or one of the second, after the hold. -/
theorem resetResult : Obligations.ResetResult := by
  intro s ha hb
  rw [exec_adReset_of_att ha]
  refine ⟨fun h => ?_, fun k hk h => ?_⟩
  · rw [resetSeq_ready (s := s.accept) hb h]; rfl
  · rcases Nat.lt_or_ge k 51 with hfirst | hsecond
    · obtain ⟨t, ht, hstatus, hbus, hbusy, had⟩ := resetSeq_faulted_first (s := s.accept) hb hfirst h
      refine ⟨t, by rw [ht, Run.finish_stop], hstatus, hbus, hbusy, ?_⟩
      rw [had]
      exact ⟨ha, rfl, fun _ => ⟨rfl, rfl⟩, fun hge => absurd hfirst (by omega)⟩
    · obtain ⟨j, rfl⟩ := Nat.exists_eq_add_of_le hsecond
      obtain ⟨t, ht, hstatus, hbus, hbusy, had⟩ := resetSeq_faulted_second (s := s.accept) hb (by omega) h
      refine ⟨t, by rw [ht, Run.finish_stop], hstatus, hbus, hbusy, ?_⟩
      rw [had, resetHeld_ad]
      exact ⟨ha, rfl, fun hlt => absurd hlt (by omega), fun _ => ⟨rfl, rfl⟩⟩

end Sys2Proof.Machine
end

section
/-! PROOFS. The AD9833 driver family, what its chip receives of AD.SETFREQ and AD.BEGIN (R111, R137, R140, R142). -/

namespace Sys2Proof.Machine

variable {s : State}

theorem sent_lines (c : Chan) (p : Profile) {ws : List Word} (h : ws ≠ []) :
    (s.sent c p ws).lines = wordEnd s.cfg c p s.lines := wordsLevels_last s.cfg c p ws s.lines s.lines h

/-- R107: the levels of a transfer on the AD9833's channel in its profile, entered with the lines at `l`. -/
def adLevels (s : State) (l : Lines) (ws : List Word) : List Lines := wordsLevels s.cfg s.ad.cs s.cfg.adProfile l ws

/-- R110, R111, R130: the driver's chip receives the words of a transfer entered with no chip-select low and the clock
high, in the driver's bit order. -/
theorem adLevels_received (h : s.cfg.wf = true) (ws : List Word) {l : Lines} (hnone : l.noneLow = true)
    (hsck : l.sck = true) :
    (frameDecode s.cfg (pack s.cfg l :: eventStates (levelsEvents s.cfg (adLevels s l ws))) s.ad.cs true false).map
      (frameWord s.cfg.adProfile.lsbf) = ws.map some := by
  obtain ⟨hcpol, hcpha⟩ := Config.adProfile_of_wf h
  have hframes := frameDecode_words (p := s.cfg.adProfile)
    (carries_of_linesDistinct (Config.linesDistinct_of_wf h)) ws (noneLow_iff.1 hnone s.ad.cs) (hsck.trans hcpol.symm)
  rw [hcpol, hcpha] at hframes
  rw [eventStates_levelsEvents, adLevels, hframes, map_frameWord_wordBits]

/-- Settles O37: the events of the command are those of one transfer of its three words. -/
theorem setFreqDelivers : Obligations.SetFreqDelivers := by
  intro ch f s hinv hbusy hch hf ha hb h hsck
  have hnone := (hinv.lines_idle hbusy hb).1
  have hcarries := carries_of_linesDistinct (Config.linesDistinct_of_wf hinv.cfg_wf)
  refine ⟨_, levelsEvents s.cfg (adLevels s s.lines (freqWords ch f s)),
    setFreqResult ch f s (Config.mclkHz_pos_of_wf hinv.cfg_wf) hch hf ha hb h, rfl, ?_, fun c' hne cpol cpha => ?_⟩
  · rw [adLevels_received hinv.cfg_wf _ hnone hsck]; rfl
  · rw [eventStates_levelsEvents]
    exact frameDecode_words_ne hcarries _ hne (noneLow_iff.1 hnone c') cpol cpha

theorem levelsEvents_append (cfg : Config) (ls ms : List Lines) :
    levelsEvents cfg (ls ++ ms) = levelsEvents cfg ls ++ levelsEvents cfg ms := List.flatMap_append

/-- R107: a transfer of two words sends what two transfers of one send. -/
theorem adLevels_pair (s : State) (l : Lines) (v w : Word) : adLevels s l [v, w] =
    adLevels s l [v] ++ adLevels s (wordEnd s.cfg s.ad.cs s.cfg.adProfile l) [w] := by
  simp [adLevels, wordsLevels]

/-- R137: the trace of a reset sequence: the image with `RESET` set, the hold, the image with `RESET` clear. -/
theorem resetDone_trace (s : State) : s.resetDone.trace =
    s.trace ++ levelsEvents s.cfg (adLevels s s.lines [ctrlPut s.cfg.ctrl .reset true s.ad.ctrl]) ++
      [.dly s.cfg.tResetUs] ++
      levelsEvents s.cfg (adLevels s (wordEnd s.cfg s.ad.cs s.cfg.adProfile s.lines)
        [ctrlPut s.cfg.ctrl .reset false s.ad.ctrl]) := by
  have hlines := sent_lines (s := s.setAdCtrl (ctrlPut s.cfg.ctrl .reset true s.ad.ctrl)) s.ad.cs s.cfg.adProfile
    (ws := [ctrlPut s.cfg.ctrl .reset true s.ad.ctrl]) (by simp)
  rw [← ctrlPut_false_true]
  exact congrArg _ (congrArg (fun l => levelsEvents s.cfg (adLevels s l _)) hlines)

/-- R137, R140: the trace of a reset sequence after the image became `v` and was sent. -/
theorem sentCtrl_resetDone_trace (s : State) (v : Word) : (s.sentCtrl v).resetDone.trace =
    s.trace ++ levelsEvents s.cfg (adLevels s s.lines [v, ctrlPut s.cfg.ctrl .reset true v]) ++
      [.dly s.cfg.tResetUs] ++
      levelsEvents s.cfg (adLevels s (wordEnd s.cfg s.ad.cs s.cfg.adProfile s.lines)
        [ctrlPut s.cfg.ctrl .reset false v]) := by
  have hlines : (s.sentCtrl v).lines = wordEnd s.cfg s.ad.cs s.cfg.adProfile s.lines :=
    sent_lines (s := s.setAdCtrl v) s.ad.cs s.cfg.adProfile (by simp)
  have hreset : (s.sentCtrl v).resetDone.trace =
      s.trace ++ levelsEvents s.cfg (adLevels s s.lines [v]) ++
        levelsEvents s.cfg (adLevels s (s.sentCtrl v).lines [ctrlPut s.cfg.ctrl .reset true v]) ++
        [.dly s.cfg.tResetUs] ++
        levelsEvents s.cfg (adLevels s (wordEnd s.cfg s.ad.cs s.cfg.adProfile (s.sentCtrl v).lines)
          [ctrlPut s.cfg.ctrl .reset false v]) := resetDone_trace (s.sentCtrl v)
  rw [hreset, hlines, wordEnd_wordEnd, adLevels_pair, levelsEvents_append, List.append_assoc s.trace]

/-- R104: after a transfer the adapter has the levels of its last word's end. -/
theorem adLevels_lastState (s : State) (l : Lines) {ws : List Word} (h : ws ≠ []) :
    (eventStates (levelsEvents s.cfg (adLevels s l ws))).getLastD 0#8 =
      pack s.cfg (wordEnd s.cfg s.ad.cs s.cfg.adProfile l) := by
  rw [eventStates_levelsEvents, List.getLastD_eq_getLast?, List.getLast?_map, adLevels, wordsLevels_getLast? l h]
  rfl

/-- Settles O38: the hold stands in the trace between the two words of the reset sequence. -/
theorem beginDelivers : Obligations.BeginDelivers := by
  intro s hinv hbusy ha hb h hsck v
  have hwf := hinv.cfg_wf
  have hnone := (hinv.lines_idle hbusy hb).1
  refine ⟨_, levelsEvents s.cfg (adLevels s s.lines [v, v ||| ctrlBit s.cfg.ctrl .reset]),
    levelsEvents s.cfg (adLevels s (wordEnd s.cfg s.ad.cs s.cfg.adProfile s.lines)
      [v &&& ~~~(ctrlBit s.cfg.ctrl .reset)]),
    exec_adBegin_ready ha hb h, sentCtrl_resetDone_trace s v, adLevels_received hwf _ hnone hsck, ?_⟩
  rw [adLevels_lastState s s.lines (by simp)]
  exact adLevels_received hwf _ (wordEnd_noneLow hnone) (Config.adProfile_of_wf hwf).1

end Sys2Proof.Machine
end

section
/-! PROOFS. The MCP41010 driver family: the word of MCP.WRITE, and what MCP.WRITE and MCP.SETCS answer (R171, R174,
R175). -/

namespace Sys2Proof.Machine

variable {s : State}

/-! ### The wiper value and its word (R171) -/

theorem clamp255_toNat (v : Int) : ((clamp255 v).toNat : Int) = max 0 (min v 255) := by
  unfold clamp255
  split_ifs with hneg hbig
  · change (0 : Int) = _; omega
  · change (255 : Int) = _; omega
  · rw [BitVec.toNat_ofInt]; omega

/-- R171: a value and its clamp have the same wiper byte. -/
theorem clamp255_clamp (v : Int) : clamp255 (max 0 (min v 255)) = clamp255 v := by
  have h : ((clamp255 (max 0 (min v 255))).toNat : Int) = (clamp255 v).toNat := by
    rw [clamp255_toNat, clamp255_toNat]; omega
  exact BitVec.eq_of_toNat_eq (Int.ofNat.inj h)

theorem mcpWord_clamp (cfg : Config) (v : Int) : mcpWord cfg (max 0 (min v 255)) = mcpWord cfg v := by
  rw [mcpWord, clamp255_clamp, mcpWord]

/-- R171: the two bytes stand side by side in the word. -/
theorem mcpWord_toNat (cfg : Config) (v : Int) :
    (mcpWord cfg v).toNat = 256 * cfg.mcpCmdByte.toNat + (clamp255 v).toNat := by
  have hcmd := cfg.mcpCmdByte.isLt
  have hval := (clamp255 v).isLt
  have hhigh : (cfg.mcpCmdByte.setWidth 16 <<< 8).toNat = cfg.mcpCmdByte.toNat <<< 8 := by
    rw [BitVec.toNat_shiftLeft, BitVec.toNat_setWidth_of_le (by decide), Nat.shiftLeft_eq]
    exact Nat.mod_eq_of_lt (by omega)
  rw [mcpWord, BitVec.toNat_or, hhigh, BitVec.toNat_setWidth_of_le (by decide),
    ← Nat.shiftLeft_add_eq_or_of_lt hval, Nat.shiftLeft_eq, Nat.mul_comm]

/-- Settles O39: the clamped byte is below 256, so the command byte above it counts 256 times. -/
theorem mcpWordIsClamped : Obligations.McpWordIsClamped := by
  intro cfg v
  rw [mcpWord_toNat, Nat.cast_add, clamp255_toNat]
  rfl

/-! ### MCP.WRITE (R175) -/

theorem requireMcp_of_att (h : s.mcp.att = true) : requireMcp s = .go s := by rw [requireMcp, h]; rfl

/-- A clamped value fits the signed 32-bit operand. -/
theorem toInt_ofInt_clamp (v : Int) :
    (BitVec.ofInt 32 (max 0 (min v 255))).toInt = max 0 (min v 255) :=
  (BitVec.toInt_ofInt _).trans (Int.bmod_eq_of_le (by omega) (by omega))

/-- R175: with the driver attached the command is one transfer of its word. -/
theorem exec_mcpWrite_of_att (imm : BitVec 32) (ha : s.mcp.att = true) : exec (.mcpWrite imm) s =
    .next (transfer [mcpWord s.cfg imm.toInt] s.mcp.cs s.cfg.mcpProfile s.accept).finish := by
  rw [exec, execMcpWrite, command, requireMcp_of_att (s := s.accept) ha, Run.go_andThen, State.accept_cfg,
    State.accept_mcp]

/-- R175, R192: with the driver detached the command changes nothing but the status. -/
theorem exec_mcpWrite_of_not_att (imm : BitVec 32) (ha : s.mcp.att = false) :
    exec (.mcpWrite imm) s = .next (s.close .deviceNotAttached) := by
  rw [exec, execMcpWrite, command, requireMcp, State.accept_mcp, ha]
  rfl

/-- R175: MCP.WRITE with ready ports. -/
theorem exec_mcpWrite_ready (imm : BitVec 32) (ha : s.mcp.att = true) (hb : s.busOk = true) (h : s.portsReady 51 51) :
    exec (.mcpWrite imm) s = .next ((s.sent s.mcp.cs s.cfg.mcpProfile [mcpWord s.cfg imm.toInt]).close .ok) := by
  rw [exec_mcpWrite_of_att imm ha, transfer_ready (s := s.accept) (ws := [mcpWord s.cfg imm.toInt]) _ _
    (List.cons_ne_nil _ _) hb h]
  rfl

/-- R175, S5: in every state a value answers what its clamp answers. -/
theorem exec_mcpWrite_clamp (imm : BitVec 32) (s : State) :
    exec (.mcpWrite imm) s = exec (.mcpWrite (BitVec.ofInt 32 (max 0 (min imm.toInt 255)))) s := by
  cases ha : s.mcp.att with
  | true =>
    rw [exec_mcpWrite_of_att _ ha, exec_mcpWrite_of_att (BitVec.ofInt 32 _) ha, toInt_ofInt_clamp, mcpWord_clamp]
  | false => rw [exec_mcpWrite_of_not_att _ ha, exec_mcpWrite_of_not_att (BitVec.ofInt 32 _) ha]

/-- Settles O40: past the attach check the command is one transfer, of a word that a value shares with its clamp. -/
theorem mcpWriteResult : Obligations.McpWriteResult :=
  fun imm s => ⟨exec_mcpWrite_ready imm, exec_mcpWrite_clamp imm s⟩

/-! ### MCP.SETCS (R174) -/

/-- Settles O12: the one line of the command writes the channel of the index. -/
theorem mcpSetCsResult : Obligations.McpSetCsResult := by
  intro imm s c himm
  rw [exec, execMcpSetCs, chanOfIndex_eq himm]
  rfl

end Sys2Proof.Machine
end

section
/-! PROOFS. The exceptions family: the checks a command makes before it touches a port, the statuses a command can
report, and how a failed request or a bad bus ends it (R190 to R197). -/

namespace Sys2Proof.Machine

variable {s t : State} {i : Instr} {e : Status}

/-! ### Illegal words (R195) -/

/-- R58, R195: a word that the decoder rejects is run as an illegal command. -/
theorem step_of_decode_eq_error {w : Cmd} {rest : List Cmd} {r : Reject} (hb : s.busy = false)
    (hc : s.cmds = w :: rest) (hd : decode w = .error r) : step s = illegal (s.setCmds rest) := by
  simp only [step, fetch_of_cmds hb hc, hd]

/-- Settles O8: the rejected word is taken from the queue, and an illegal command only closes with its status. -/
theorem illegalWordRaises : Obligations.IllegalWordRaises := by
  intro s w rest r hb hc hd
  rw [step_of_decode_eq_error hb hc hd, illegal_eq]

/-! ### The checks of a command (R191, R192, R197) -/

/-- R192: what a driver with attach flag `att` answers to a command that touches the bus. -/
def attachRejection (att : Bool) : Option Status := if att then none else some .deviceNotAttached

@[simp] theorem attachRejection_eq_none {att : Bool} : attachRejection att = none ↔ att = true := by
  cases att <;> simp [attachRejection]

@[simp] theorem attachRejection_eq_some {att : Bool} :
    attachRejection att = some e ↔ att = false ∧ e = .deviceNotAttached := by
  cases att <;> simp [attachRejection, eq_comm]

/-- R191, R192, R197: what such a command answers whose operands, `ok` or not, are checked before the attach flag. -/
def operandRejection (ok att : Bool) : Option Status := if ok then attachRejection att else some .invalidArgument

@[simp] theorem operandRejection_eq_none {ok att : Bool} :
    operandRejection ok att = none ↔ ok = true ∧ att = true := by
  cases ok <;> simp [operandRejection]

@[simp] theorem operandRejection_eq_some {ok att : Bool} : operandRejection ok att = some e ↔
    ok = false ∧ e = .invalidArgument ∨ ok = true ∧ att = false ∧ e = .deviceNotAttached := by
  cases ok with
  | false => simp [operandRejection, eq_comm]
  | true => simp [operandRejection]

/-- R79, R191, R192, R197: the status with which the checks of a command reject it, if they do: first the operands, then
the attach flag of its own driver. -/
def rejection (i : Instr) (s : State) : Option Status :=
  match i with
  | .xfer c p ws => if (Instr.xfer c p ws).legalIn s.cfg then none else some .illegalCommand
  | .adBegin | .adReset | .adSetMode _ | .adShutdown => attachRejection s.ad.att
  | .adSetFreq ch f => operandRejection (freqArgsOk s.cfg ch f) s.ad.att
  | .adSetAct ch => operandRejection (isFreqChannel ch.toInt) s.ad.att
  | .mcpWrite _ => attachRejection s.mcp.att
  | .cfgIdle _ | .adAttach | .adDetach | .adSetCs _ | .mcpAttach | .mcpDetach | .mcpSetCs _ => none

theorem requireAd_of_not_att (h : s.ad.att = false) : requireAd s = raise .deviceNotAttached s := by
  rw [requireAd, h]; rfl

/-- R191, R192, R197: a rejected command reports why, and changes nothing else. -/
theorem exec_of_rejection (h : rejection i s = some e) : exec i s = .next (s.close e) := by
  have hatt : attachRejection s.ad.att = some e →
      requireAd s.accept = raise .deviceNotAttached s.accept ∧ e = .deviceNotAttached := fun h =>
    (attachRejection_eq_some.1 h).imp_left (requireAd_of_not_att (s := s.accept))
  cases i with
  | xfer c p ws =>
    rw [rejection] at h
    split_ifs at h with hl
    cases h
    exact exec_xfer_of_not_legalIn hl
  | adBegin => obtain ⟨hreq, rfl⟩ := hatt h; rw [exec, execAdBegin, command, hreq]; rfl
  | adReset => obtain ⟨hreq, rfl⟩ := hatt h; rw [exec, execAdReset, command, hreq]; rfl
  | adSetMode m => obtain ⟨hreq, rfl⟩ := hatt h; rw [exec, execAdSetMode, command, setModeProc, hreq]; rfl
  | adShutdown => obtain ⟨hreq, rfl⟩ := hatt h; rw [exec, execAdShutdown, command, setModeProc, hreq]; rfl
  | adSetFreq ch f =>
    rw [exec, execAdSetFreq, command, setFreqProc, State.accept_cfg]
    rcases operandRejection_eq_some.1 h with ⟨hargs, rfl⟩ | ⟨hargs, ha, rfl⟩
    · rw [if_neg fun hfault => by simp [hargs] at hfault, hargs]; rfl
    · rw [if_neg fun hfault => by simp [ha] at hfault, hargs, require_true, Run.go_andThen,
        requireAd_of_not_att (s := s.accept) ha]
      rfl
  | adSetAct ch =>
    rw [exec, execAdSetAct, command]
    rcases operandRejection_eq_some.1 h with ⟨hch, rfl⟩ | ⟨hch, ha, rfl⟩
    · rw [hch]; rfl
    · rw [hch, require_true, Run.go_andThen, requireAd_of_not_att (s := s.accept) ha]; rfl
  | mcpWrite imm =>
    obtain ⟨ha, rfl⟩ := attachRejection_eq_some.1 h
    exact exec_mcpWrite_of_not_att imm ha
  | cfgIdle | adAttach | adDetach | adSetCs | mcpAttach | mcpDetach | mcpSetCs => cases h

/-! ### Past its checks a command raises `GpioFault` alone (R190, R193, R194) -/

/-- Where a command past its checks is: busy while it goes on, and if it has closed then with `GpioFault`. -/
def OnlyFaults (b : Bool) (t : State) : Prop :=
  if b then t.busy = true else t.busy = false → t.status = .gpioFault

theorem BusEnds.onlyFaults {r : Run} (h : BusEnds s r) (hb : s.busy = true) : r.Holds OnlyFaults := by
  refine h.holds (fun b l es bo sh as ws => ?_) fun _ _ _ _ _ _ _ => rfl
  cases b with
  | true => exact hb
  | false => exact fun hf => absurd (hb.symm.trans hf) (by decide)

theorem writeReg_onlyFaults (hb : s.busy = true) : (writeReg s).Holds OnlyFaults :=
  (transfer_busEnds _ _ _ s).onlyFaults hb

theorem resetSeq_onlyFaults (hb : s.busy = true) : (resetSeq s).Holds OnlyFaults := by
  refine (writeReg_onlyFaults (s := putCtrl .reset true s) hb).andThen (fun t ht => ?_) fun _ h => h
  refine ((delay_busEnds _ (t.setAdRst true)).onlyFaults ht).andThen (fun u hu => ?_) fun _ h => h
  exact (writeReg_onlyFaults (s := putCtrl .reset false u) hu).andThen (fun _ hv => hv) fun _ h => h

theorem body_onlyFaults (hr : rejection i s = none) (hb : s.busy = true) : (body i s).Holds OnlyFaults := by
  have hatt : attachRejection s.ad.att = none → requireAd s = .go s := fun h =>
    requireAd_of_att (attachRejection_eq_none.1 h)
  cases i with
  | cfgIdle p => exact (cfgIdleProc_busEnds p s).onlyFaults hb
  | xfer c p ws =>
    rw [rejection] at hr
    split_ifs at hr with hl
    rw [body, if_pos hl]
    exact (transfer_busEnds _ c p s).onlyFaults hb
  | adAttach => exact ((cfgIdleProc_busEnds _ s).onlyFaults hb).andThen (fun _ ht => ht) fun _ h => h
  | mcpAttach => exact ((cfgIdleProc_busEnds _ s).onlyFaults hb).andThen (fun _ ht => ht) fun _ h => h
  | adDetach | adSetCs | mcpDetach | mcpSetCs => exact hb
  | adBegin =>
    rw [body, hatt hr, Run.go_andThen]
    exact (writeReg_onlyFaults (s := putCtrl .b28 true s) hb).andThen (fun _ => resetSeq_onlyFaults) fun _ h => h
  | adReset => rw [body, hatt hr, Run.go_andThen]; exact resetSeq_onlyFaults hb
  | adSetFreq ch f =>
    obtain ⟨hargs, ha⟩ := operandRejection_eq_none.1 hr
    rw [body, setFreqProc, hargs, require_true, Run.go_andThen, requireAd_of_att ha, Run.go_andThen]
    exact (transfer_busEnds _ _ _ s).onlyFaults hb
  | adSetAct ch =>
    obtain ⟨hch, ha⟩ := operandRejection_eq_none.1 hr
    rw [body, hch, require_true, Run.go_andThen, requireAd_of_att ha, Run.go_andThen]
    exact writeReg_onlyFaults (s := putCtrl .fselect _ s) hb
  | adSetMode m => rw [body, setModeProc, hatt hr, Run.go_andThen]; exact writeReg_onlyFaults (s := s.setAdCtrl _) hb
  | adShutdown => rw [body, setModeProc, hatt hr, Run.go_andThen]; exact writeReg_onlyFaults (s := s.setAdCtrl _) hb
  | mcpWrite imm =>
    rw [body, requireMcp_of_att (attachRejection_eq_none.1 hr), Run.go_andThen]
    exact (transfer_busEnds _ _ _ s).onlyFaults hb

/-- R190: a command that ends reports `OK`, or `GpioFault`, or the status its checks reject it with. -/
theorem status_of_exec (h : exec i s = .next t) (hb : t.busy = false) :
    t.status = .ok ∨ t.status = .gpioFault ∨ rejection i s = some t.status := by
  cases hr : rejection i s with
  | some e =>
    obtain rfl : s.close e = t := Host.Outcome.next.inj ((exec_of_rejection hr).symm.trans h)
    exact .inr (.inr rfl)
  | none =>
    have hbody : (body i s.accept).Holds OnlyFaults := body_onlyFaults (s := s.accept) hr rfl
    have hend : t.busy = false → t.status = .ok ∨ t.status = .gpioFault := by
      rw [eq_finish_body_of_exec h]
      exact hbody.finish (Q := fun u => u.busy = false → u.status = .ok ∨ u.status = .gpioFault)
        (fun _ _ _ => .inl rfl) fun _ hu hf => .inr (hu hf)
    exact (hend hb).imp_right .inl

/-- R51, R190: a command that returned a status to the host has ended with it. -/
theorem closed_of_replies (h : exec i s = .next t) (hr : t.replies = s.replies ++ [e]) :
    t.busy = false ∧ t.status = e := by
  rcases exec_ends h with hrun | ⟨u, e', hrun, rfl, -⟩
  · exact absurd (hrun.replies.symm.trans hr) (by simp)
  · rw [State.close_replies, hrun.replies, State.accept_replies, List.append_cancel_left_eq, List.singleton_inj] at hr
    exact ⟨rfl, hr⟩

/-- R190: a status that is neither `OK` nor `GpioFault` is that of a rejection. -/
theorem rejection_of_replies (h : exec i s = .next t) (hr : t.replies = s.replies ++ [e]) (hok : e ≠ .ok)
    (hfault : e ≠ .gpioFault) : rejection i s = some e := by
  obtain ⟨hb, rfl⟩ := closed_of_replies h hr
  rcases status_of_exec h hb with h' | h' | h'
  · exact absurd h' hok
  · exact absurd h' hfault
  · exact h'

/-! ### `InvalidArgument` and `DeviceNotAttached` (R191, R192) -/

theorem isFreqChannel_eq_false (ch : Int) : isFreqChannel ch = false ↔ ¬(ch = 0 ∨ ch = 1) := by
  rw [← isFreqChannel_eq_true, Bool.not_eq_true]

/-- R191: what AD.SETFREQ rejects. -/
theorem freqArgsOk_eq_false (cfg : Config) (ch : BitVec 8) (f : BitVec 48) :
    freqArgsOk cfg ch f = false ↔ ¬(ch.toInt = 0 ∨ ch.toInt = 1) ∨ freqOperand cfg f < 0 := by
  rw [← Bool.not_eq_true, freqArgsOk_eq_true, not_and_or, not_le]

/-- Settles O41: the operand checks come first, and no other check answers `InvalidArgument`. -/
theorem invalidArgumentCauses : Obligations.InvalidArgumentCauses := by
  refine ⟨fun ch f s h => exec_of_rejection ?_, fun ch s h => exec_of_rejection ?_, fun i s t h hr => ?_⟩
  · exact operandRejection_eq_some.2 (.inl ⟨(freqArgsOk_eq_false ..).2 h, rfl⟩)
  · exact operandRejection_eq_some.2 (.inl ⟨(isFreqChannel_eq_false _).2 h, rfl⟩)
  · have hrej := rejection_of_replies h hr (by decide) (by decide)
    cases i with
    | adSetFreq ch f =>
      have hargs : freqArgsOk s.cfg ch f = false := by simpa [rejection] using hrej
      exact (freqArgsOk_eq_false ..).1 hargs
    | adSetAct ch =>
      have hch : isFreqChannel ch.toInt = false := by simpa [rejection] using hrej
      exact (isFreqChannel_eq_false _).1 hch
    | _ => simp [rejection] at hrej

/-- Settles O42: with legal operands the attach check of its own driver decides, and no other check answers
`DeviceNotAttached`. -/
theorem unattachedDriverRejects : Obligations.UnattachedDriverRejects := by
  refine ⟨fun s => ⟨fun ha => ?_, fun hm imm => exec_mcpWrite_of_not_att imm hm⟩, fun i s t h hr => ?_⟩
  · have hatt : attachRejection s.ad.att = some .deviceNotAttached := attachRejection_eq_some.2 ⟨ha, rfl⟩
    refine ⟨exec_of_rejection hatt, exec_of_rejection hatt, exec_of_rejection hatt, fun m => exec_of_rejection hatt,
      fun ch hch => ⟨exec_of_rejection ?_, fun f hf => exec_of_rejection ?_⟩⟩
    · exact operandRejection_eq_some.2 (.inr ⟨(isFreqChannel_eq_true _).2 hch, ha, rfl⟩)
    · exact operandRejection_eq_some.2 (.inr ⟨(freqArgsOk_eq_true ..).2 ⟨hch, hf⟩, ha, rfl⟩)
  · have hrej := rejection_of_replies h hr (by decide) (by decide)
    cases i with
    | adBegin | adReset | adSetMode | adShutdown | mcpWrite => exact (attachRejection_eq_some.1 hrej).1
    | adSetFreq | adSetAct =>
      rcases operandRejection_eq_some.1 hrej with ⟨-, he⟩ | ⟨-, ha, -⟩
      · cases he
      · exact ha
    | _ => simp [rejection] at hrej

/-! ### One status of the command's row (R190, R196) -/

theorem ok_mem_endStatuses (i : Instr) : Status.ok ∈ endStatuses i := by cases i <;> simp [endStatuses]

/-- R196: a rejection of a command the block can carry is in its row. -/
theorem rejection_mem_endStatuses (hl : i.legalIn s.cfg = true) (h : rejection i s = some e) : e ∈ endStatuses i := by
  cases i with
  | xfer c p ws => rw [rejection, if_pos hl] at h; cases h
  | adBegin | adReset | adSetMode | adShutdown | mcpWrite => simp [endStatuses, (attachRejection_eq_some.1 h).2]
  | adSetFreq | adSetAct =>
    rcases operandRejection_eq_some.1 h with ⟨-, rfl⟩ | ⟨-, -, rfl⟩
    · simp [endStatuses]
    · simp [endStatuses]
  | cfgIdle | adAttach | adDetach | adSetCs | mcpAttach | mcpDetach | mcpSetCs => cases h

/-- R196, R236: a command that reports `GpioFault` has a port to fail on. -/
theorem gpioFault_mem_endStatuses (h : exec i s = .next t) (hst : t.status = .gpioFault) :
    Status.gpioFault ∈ endStatuses i := by
  have hok : (i = .adDetach ∨ i = .mcpDetach ∨ (∃ imm, i = .adSetCs imm) ∨ ∃ imm, i = .mcpSetCs imm) →
      t.status = .ok := fun hi => by
    obtain ⟨u, hu, -⟩ := body_of_portless hi s.accept
    rw [eq_finish_body_of_exec h, hu]; rfl
  cases i with
  | adDetach | mcpDetach | adSetCs | mcpSetCs => rw [hok (by simp)] at hst; cases hst
  | _ => simp [endStatuses]

/-- Settles O45: a command that closed did so with `OK`, a fault of a port it has, or a rejection of its row. -/
theorem commandsReportOneStatus : Obligations.CommandsReportOneStatus := by
  intro i s t hl h
  rcases exec_ends h with hrun | ⟨u, e, hrun, rfl, -⟩
  · exact .inr ⟨hrun.busy, hrun.replies, hrun.status⟩
  · refine .inl ⟨rfl, by rw [State.close_replies, hrun.replies]; rfl, ?_⟩
    rcases status_of_exec h rfl with hst | hst | hrej
    · rw [hst]; exact ok_mem_endStatuses i
    · rw [hst]; exact gpioFault_mem_endStatuses h hst
    · exact rejection_mem_endStatuses hl hrej

/-! ### A failed request ends the command (R55, R193) -/

/-- R55, R193: `BUS_OK` is clear, and the last event is a request at the state of the line registers. -/
def FailedRequestLast (cfg : Config) (t : State) : Prop :=
  t.busOk = false ∧
    (t.trace.getLast? = some (.cfg cfg.enMask cfg.dirMask (pack cfg t.lines)) ∨
      t.trace.getLast? = some (.drv cfg.dirMask (pack cfg t.lines)))

/-- Where a command begun in `s` on a good bus is: going on with a good bus, or hanging, or closed, if with `GpioFault`
then by a failed request. -/
inductive GoodBusAt (s : State) : Bool → State → Prop
  | going (t : State) (hcfg : t.cfg = s.cfg) (hb : t.busy = true) (hbus : t.busOk = true) : GoodBusAt s true t
  | hanging (t : State) (hb : t.busy = true) : GoodBusAt s false t
  | rejected (t : State) (hst : t.status ≠ .gpioFault) : GoodBusAt s false t
  | failed (t : State) (h : FailedRequestLast s.cfg t) : GoodBusAt s false t

theorem transfer_goodBusAt (ws : List Word) (c : Chan) (p : Profile) (h : GoodBusAt s true t) :
    (transfer ws c p t).Holds (GoodBusAt s) := by
  cases h with
  | going _ hcfg hb hbus =>
  have hends := transfer_ends ws c p hbus
  generalize transfer ws c p t = r at hends
  cases hends with
  | sent => exact .going _ hcfg hb hbus
  | failed k l sh as ws' hk =>
    refine .failed _ ⟨rfl, .inr ?_⟩
    rw [State.close_trace, State.onBus_trace, ← List.append_assoc, List.getLast?_concat, hcfg]
    rfl
  | unanswered => exact .hanging _ hb
  | waiting => exact .hanging _ hb

theorem cfgIdleProc_goodBusAt (p : Profile) (h : GoodBusAt s true t) : (cfgIdleProc p t).Holds (GoodBusAt s) := by
  cases h with
  | going _ hcfg hb hbus =>
  rcases cfgIdleProc_ends p t with ⟨as, ws, hr⟩ | ⟨as, ws, hr⟩ | ⟨as, ws, hr, -⟩ | ⟨as, ws, hr, -⟩
  · rw [hr]; exact .going _ hcfg hb rfl
  · rw [hr]
    refine .failed _ ⟨rfl, .inl ?_⟩
    rw [State.close_trace, State.onBus_trace, List.getLast?_concat, hcfg]
    rfl
  · rw [hr]; exact .hanging _ hb
  · rw [hr]; exact .hanging _ hb

theorem delay_goodBusAt (n : Nat) (h : GoodBusAt s true t) : (delay n t).Holds (GoodBusAt s) := by
  cases h with
  | going _ hcfg hb hbus =>
  rcases delay_ends n t with ⟨ws, hr, -⟩ | ⟨ws, hr, -⟩
  · rw [hr]; exact .going _ hcfg hb hbus
  · rw [hr]; exact .hanging _ hb

theorem stable_goodBusAt (s : State) : Stable i (GoodBusAt s) where
  write t u h hw := by
    cases h with
    | going _ hcfg hb hbus => cases hw <;> exact .going _ hcfg hb hbus
  reject _ _ _ _ he := .rejected _ he
  transfer ws c p _ _ h := transfer_goodBusAt ws c p h
  cfgIdle p _ h := cfgIdleProc_goodBusAt p h
  delay n _ h := delay_goodBusAt n h

/-- Settles O44: the bus is good while the command goes on, so what closes it with `GpioFault` is a failed request. -/
theorem failedRequestIsLastEvent : Obligations.FailedRequestIsLastEvent := by
  intro i s t h hbus hr
  obtain ⟨hb, hst⟩ := closed_of_replies h hr
  have hP : (body i s.accept).Holds (GoodBusAt s) := (stable_goodBusAt s).body (.going _ rfl rfl hbus)
  rw [eq_finish_body_of_exec h] at hb hst ⊢
  cases hbody : body i s.accept with
  | go u => rw [hbody] at hst; cases hst
  | stop u =>
    rw [hbody] at hP hb hst
    cases hP with
    | hanging _ hbusy => exact absurd (hbusy.symm.trans hb) (by decide)
    | rejected _ hne => exact absurd hst hne
    | failed _ hlast => exact hlast

/-! ### A bad bus ends the command (R146, R194) -/

theorem exec_mcpWrite_of_busOk_false (imm : BitVec 32) (ha : s.mcp.att = true) (hb : s.busOk = false) :
    exec (.mcpWrite imm) s = .next (s.close .gpioFault) := by
  rw [exec_mcpWrite_of_att imm ha, transfer_busOk_false _ _ _ (s := s.accept) hb]; rfl

theorem exec_adBegin_of_busOk_false (ha : s.ad.att = true) (hb : s.busOk = false) :
    exec .adBegin s = .next ((s.setAdCtrl (ctrlPut s.cfg.ctrl .b28 true s.ad.ctrl)).close .gpioFault) := by
  rw [exec, execAdBegin, command, requireAd_of_att (s := s.accept) ha, Run.go_andThen,
    writeReg_busOk_false (s := putCtrl .b28 true s.accept) hb]
  rfl

theorem exec_adReset_of_busOk_false (ha : s.ad.att = true) (hb : s.busOk = false) :
    exec .adReset s = .next ((s.setAdCtrl (ctrlPut s.cfg.ctrl .reset true s.ad.ctrl)).close .gpioFault) := by
  rw [exec_adReset_of_att ha, resetSeq_busOk_false (s := s.accept) hb]; rfl

theorem exec_adSetMode_of_busOk_false (m : Mode) (ha : s.ad.att = true) (hb : s.busOk = false) :
    exec (.adSetMode m) s = .next ((s.setAdCtrl (ctrlWithMode s.cfg.modes m s.ad.ctrl)).close .gpioFault) := by
  rw [exec, execAdSetMode, command, setModeProc, requireAd_of_att (s := s.accept) ha, Run.go_andThen,
    writeReg_busOk_false (s := s.accept.setAdCtrl _) hb]
  rfl

/-- R143: the operand that stands for a bit of the image is a legal channel, and is 1 where the bit is. -/
theorem isFreqChannel_of_bit {ch : Int} {b : Bool} (hch : ch = if b then 1 else 0) :
    isFreqChannel ch = true ∧ decide (ch = 1) = b := by
  cases b <;> simp [hch, isFreqChannel]

theorem exec_adSetAct_of_busOk_false {ch : BitVec 8} {b : Bool} (hch : ch.toInt = if b then 1 else 0)
    (ha : s.ad.att = true) (hb : s.busOk = false) :
    exec (.adSetAct ch) s = .next ((s.setAdCtrl (ctrlPut s.cfg.ctrl .fselect b s.ad.ctrl)).close .gpioFault) := by
  obtain ⟨hok, hbit⟩ := isFreqChannel_of_bit hch
  rw [exec, execAdSetAct, command, hok, require_true, Run.go_andThen, requireAd_of_att (s := s.accept) ha,
    Run.go_andThen, hbit, writeReg_busOk_false (s := putCtrl .fselect b s.accept) hb]
  rfl

theorem exec_adSetFreq_of_busOk_false {ch : BitVec 8} {f : BitVec 48} (hargs : freqArgsOk s.cfg ch f = true)
    (ha : s.ad.att = true) (hb : s.busOk = false) : exec (.adSetFreq ch f) s = .next (s.close .gpioFault) := by
  rw [exec, execAdSetFreq, if_neg fun hfault => by simp [hb] at hfault, command, setFreqProc, State.accept_cfg, hargs,
    require_true, Run.go_andThen, requireAd_of_att (s := s.accept) ha, Run.go_andThen,
    transfer_busOk_false _ _ _ (s := s.accept) hb]
  rfl

/-- Settles O43: past its checks each command comes to its first transfer, which finds the bus bad. -/
theorem badBusRaisesGpioFault : Obligations.BadBusRaisesGpioFault := by
  intro s hb
  refine ⟨fun c p ws hl hp => exec_xfer_of_busOk_false hl hp hb,
    fun ha imm => exec_mcpWrite_of_busOk_false imm ha hb, fun ha => ?_⟩
  refine ⟨exec_adBegin_of_busOk_false ha hb, exec_adReset_of_busOk_false ha hb,
    (exec_adShutdown s).trans (exec_adSetMode_of_busOk_false .off ha hb),
    fun m => exec_adSetMode_of_busOk_false m ha hb, fun ch b hch => ?_⟩
  refine ⟨exec_adSetAct_of_busOk_false hch ha hb, fun f hf => exec_adSetFreq_of_busOk_false ?_ ha hb⟩
  exact (freqArgsOk_eq_true _ _ _).2 ⟨(isFreqChannel_eq_true _).1 (isFreqChannel_of_bit hch).1, hf⟩

end Sys2Proof.Machine
end

section
/-! PROOFS. The hazards family: the requests and delays of a command, and that an answered command ends (R236, U9). -/

namespace Sys2Proof.Machine

variable {s t : State} {i : Instr}

/-! ### The requests and delays of a trace (R236) -/

/-- R236: a row of the table: the `CFG` events of a trace, its `DRV` events, all its events, and the least time its
delays take. -/
def tally (es : List Event) : Nat × Nat × Nat × Nat := (countCfg es, countDrv es, es.length, minDelay es)

theorem tally_eq_iff {es : List Event} {c d n us : Nat} :
    tally es = (c, d, n, us) ↔ countCfg es = c ∧ countDrv es = d ∧ es.length = n ∧ minDelay es = us := by
  simp only [tally, Prod.mk.injEq]

theorem tally_append (es es' : List Event) : tally (es ++ es') = tally es + tally es' := by
  have hcfg : countCfg (es ++ es') = countCfg es + countCfg es' := List.countP_append
  have hdelay : minDelay (es ++ es') = minDelay es + minDelay es' := by
    simp only [minDelay, List.map_append, List.sum_append]
  simp only [tally, hcfg, countDrv_append, List.length_append, hdelay, Prod.mk_add_mk]

/-- R102: every level sent is one write and one delay. -/
theorem tally_levelsEvents (cfg : Config) : ∀ ls : List Lines,
    tally (levelsEvents cfg ls) = (0, ls.length, 2 * ls.length, ls.length * cfg.tBitUs)
  | [] => by simp [levelsEvents, tally, countCfg, countDrv, minDelay]
  | l :: ls => by
    have hl : tally (levelEvents cfg l) = (0, 1, 2, cfg.tBitUs) := by
      simp [levelEvents, tally, countCfg, countDrv, minDelay]
    rw [levelsEvents, List.flatMap_cons, tally_append, hl, ← levelsEvents, tally_levelsEvents cfg ls]
    simp only [Prod.mk_add_mk, List.length_cons, Prod.mk.injEq, Nat.succ_mul, true_and]
    omega

/-! ### The requests and delays of the procedures (R104, R106, R109, R137) -/

/-- R109: a transfer that went on has sent the levels of its words. -/
theorem transfer_go_tally {ws : List Word} {c : Chan} {p : Profile} (h : transfer ws c p s = .go t) :
    tally t.trace =
      tally s.trace + (0, 51 * ws.length, 102 * ws.length, 51 * ws.length * s.cfg.tBitUs) := by
  cases hb : s.busOk with
  | false => rw [transfer_busOk_false _ _ _ hb] at h; cases h
  | true =>
    have hends := transfer_ends ws c p hb
    rw [h] at hends
    cases hends
    rw [State.onBus_trace, tally_append, tally_levelsEvents, wordsLevels_length, ← Nat.mul_assoc]

theorem writeReg_go_tally (h : writeReg s = .go t) :
    tally t.trace = tally s.trace + (0, 51, 102, 51 * s.cfg.tBitUs) := transfer_go_tally h

theorem delay_go_tally {n : Nat} (h : delay n s = .go t) : tally t.trace = tally s.trace + (0, 0, 1, n) := by
  rcases delay_ends n s with ⟨_, hr, -⟩ | ⟨_, hr, -⟩
  · cases hr.symm.trans h; exact tally_append s.trace [.dly n]
  · cases hr.symm.trans h

/-- R106: one request and one delay. -/
theorem cfgIdleProc_go_tally {p : Profile} (h : cfgIdleProc p s = .go t) :
    tally t.trace = tally s.trace + (1, 0, 2, s.cfg.tSettleUs) := by
  rcases cfgIdleProc_ends p s with ⟨_, _, hr⟩ | ⟨_, _, hr⟩ | ⟨_, _, hr, -⟩ | ⟨_, _, hr, -⟩
  · cases hr.symm.trans h
    rw [State.onBus_trace, tally_append]
    simp [tally, countCfg, countDrv, minDelay]
  · cases hr.symm.trans h
  · cases hr.symm.trans h
  · cases hr.symm.trans h

/-- R137: two words, and the hold between them. -/
theorem resetSeq_go_tally (h : resetSeq s = .go t) :
    tally t.trace = tally s.trace + (0, 102, 205, 102 * s.cfg.tBitUs + s.cfg.tResetUs) := by
  simp only [resetSeq, Run.andThen_eq_go] at h
  obtain ⟨a, ha, b, hb, d, hd, h⟩ := h
  cases h
  have hacfg : a.cfg = s.cfg := writeReg_go_cfg (s := putCtrl .reset true s) ha
  have hbcfg : b.cfg = a.cfg := (hb ▸ delay_busEnds _ (a.setAdRst true) : BusEnds (a.setAdRst true) _).go_cfg
  have hset : tally a.trace = tally s.trace + (0, 51, 102, 51 * s.cfg.tBitUs) :=
    writeReg_go_tally (s := putCtrl .reset true s) ha
  have hhold : tally b.trace = tally a.trace + (0, 0, 1, a.cfg.tResetUs) :=
    delay_go_tally (s := a.setAdRst true) hb
  have hclear : tally d.trace = tally b.trace + (0, 51, 102, 51 * b.cfg.tBitUs) :=
    writeReg_go_tally (s := putCtrl .reset false b) hd
  rw [State.setAdRst_trace, hclear, hhold, hset, hbcfg, hacfg, add_assoc, add_assoc]
  simp only [Prod.mk_add_mk, add_right_inj, Prod.mk.injEq]
  omega

theorem setModeProc_go_tally {m : Mode} (h : setModeProc m s = .go t) :
    tally t.trace = tally s.trace + (0, 51, 102, 51 * s.cfg.tBitUs) := by
  simp only [setModeProc, requireAd, Run.andThen_eq_go, require_eq_go] at h
  obtain ⟨_, ⟨-, rfl⟩, h⟩ := h
  have hsent := writeReg_go_tally h
  exact hsent

/-- R140: one word, then a reset sequence. -/
theorem begin_go_tally (h : (writeReg (putCtrl .b28 true s)).andThen resetSeq = .go t) :
    tally t.trace = tally s.trace + (0, 153, 307, 153 * s.cfg.tBitUs + s.cfg.tResetUs) := by
  obtain ⟨a, ha, h⟩ := Run.andThen_eq_go.1 h
  have hcfg : a.cfg = s.cfg := writeReg_go_cfg (s := putCtrl .b28 true s) ha
  have hset : tally a.trace = tally s.trace + (0, 51, 102, 51 * s.cfg.tBitUs) :=
    writeReg_go_tally (s := putCtrl .b28 true s) ha
  rw [resetSeq_go_tally h, hset, hcfg, add_assoc]
  simp only [Prod.mk_add_mk, add_right_inj, Prod.mk.injEq, true_and]
  omega

/-- Settles O52: a command that reports `OK` has reached its last line, and its events are those its procedures add. -/
theorem eventCounts : Obligations.EventCounts := by
  intro i s t es _ h hr htr words
  obtain ⟨u, hu, rfl⟩ := body_of_replies_ok h hr
  have hrow : ∀ {c d n us : Nat}, tally u.trace = tally s.accept.trace + (c, d, n, us) →
      countCfg es = c ∧ countDrv es = d ∧ es.length = n ∧ minDelay es = us := fun hadds => by
    rw [← State.close_trace u .ok, htr, tally_append, State.accept_trace] at hadds
    exact tally_eq_iff.1 (add_left_cancel hadds)
  have hnone : u.trace = s.trace → es = [] := fun hsame => List.self_eq_append_right.1 (hsame.symm.trans htr)
  cases i with
  | cfgIdle p => exact hrow (cfgIdleProc_go_tally hu)
  | xfer c p ws =>
    rw [body] at hu
    split_ifs at hu
    · have hsent := transfer_go_tally hu
      rw [List.length_map] at hsent
      exact hrow hsent
    · cases hu
  | adAttach | mcpAttach =>
    obtain ⟨v, hv, hvu⟩ := Run.andThen_eq_go.1 hu
    cases hvu
    exact hrow (cfgIdleProc_go_tally (s := s.accept) (t := v) hv)
  | adBegin =>
    simp only [body, requireAd, Run.andThen_eq_go (r := require _ _ _), require_eq_go] at hu
    obtain ⟨_, ⟨-, rfl⟩, hu⟩ := hu
    exact hrow (begin_go_tally hu)
  | adReset =>
    simp only [body, requireAd, Run.andThen_eq_go, require_eq_go] at hu
    obtain ⟨_, ⟨-, rfl⟩, hu⟩ := hu
    exact hrow (resetSeq_go_tally hu)
  | adSetFreq ch f =>
    simp only [body, setFreqProc, requireAd, Run.andThen_eq_go, require_eq_go] at hu
    obtain ⟨_, ⟨-, rfl⟩, _, ⟨-, rfl⟩, hu⟩ := hu
    exact hrow (transfer_go_tally hu)
  | adSetAct ch =>
    simp only [body, requireAd, Run.andThen_eq_go, require_eq_go] at hu
    obtain ⟨_, ⟨-, rfl⟩, _, ⟨-, rfl⟩, hu⟩ := hu
    exact hrow (writeReg_go_tally (s := putCtrl _ _ s.accept) hu)
  | adSetMode m => exact hrow (setModeProc_go_tally hu)
  | adShutdown => exact hrow (setModeProc_go_tally hu)
  | mcpWrite imm =>
    simp only [body, requireMcp, Run.andThen_eq_go, require_eq_go] at hu
    obtain ⟨_, ⟨-, rfl⟩, hu⟩ := hu
    exact hrow (transfer_go_tally hu)
  | adDetach | adSetCs imm | mcpDetach | mcpSetCs imm => cases hu; exact hnone rfl

/-! ### Where everything is answered, a command ends (U9) -/

/-- U9: every answer and every wait still to come is one that comes. -/
def State.Answered (s : State) : Prop := Answer.never ∉ s.answers ∧ Wait.never ∉ s.waits

/-- Where a command is, if nothing hangs: going on with everything answered, or closed. -/
def NeverHangs (b : Bool) (t : State) : Prop := if b then t.Answered else t.busy = false

theorem State.Answered.of_suffix (h : s.Answered) (ha : t.answers <:+ s.answers) (hw : t.waits <:+ s.waits) :
    t.Answered := ⟨fun hn => h.1 (ha.subset hn), fun hn => h.2 (hw.subset hn)⟩

theorem request_go_inputs {e : Event} (h : request e s = .go t) : t.answers <:+ s.answers ∧ t.waits = s.waits := by
  rw [request] at h
  split at h
  · cases h; exact ⟨List.suffix_refl _, rfl⟩
  · next ha => cases h; exact ⟨by rw [ha]; exact List.suffix_cons _ _, rfl⟩
  · cases h
  · cases h

theorem delay_go_inputs {n : Nat} (h : delay n s = .go t) : t.answers = s.answers ∧ t.waits <:+ s.waits := by
  rcases delay_ends n s with ⟨_, hr, hw⟩ | ⟨_, hr, -⟩
  · cases hr.symm.trans h; exact ⟨rfl, hw⟩
  · cases hr.symm.trans h

/-- R106: an idle configuration that went on has used answers and waits from the front. -/
theorem cfgIdleProc_go_inputs {p : Profile} (h : cfgIdleProc p s = .go t) :
    t.answers <:+ s.answers ∧ t.waits <:+ s.waits := by
  simp only [cfgIdleProc, Run.andThen_eq_go] at h
  obtain ⟨a, ha, b, hb, h⟩ := h
  cases h
  obtain ⟨haa, haw⟩ := request_go_inputs ha
  obtain ⟨hba, hbw⟩ := delay_go_inputs hb
  exact ⟨hba ▸ haa, haw ▸ hbw⟩

theorem transfer_neverHangs (ws : List Word) (c : Chan) (p : Profile) (h : NeverHangs true s) :
    (transfer ws c p s).Holds NeverHangs := by
  cases hb : s.busOk with
  | false => rw [transfer_busOk_false _ _ _ hb]; rfl
  | true =>
    have hends := transfer_ends ws c p hb
    generalize transfer ws c p s = r at hends
    cases hends with
    | sent sh as ws' ha hw => exact State.Answered.of_suffix h ha hw
    | failed => rfl
    | unanswered _ _ _ _ _ _ hn => exact absurd hn h.1
    | waiting _ _ _ _ _ _ hn => exact absurd hn h.2

theorem cfgIdleProc_neverHangs (p : Profile) (h : NeverHangs true s) : (cfgIdleProc p s).Holds NeverHangs := by
  rcases cfgIdleProc_ends p s with ⟨_, _, hr⟩ | ⟨_, _, hr⟩ | ⟨_, _, -, hn⟩ | ⟨_, _, -, hn⟩
  · obtain ⟨ha, hw⟩ := cfgIdleProc_go_inputs hr
    rw [hr]; exact State.Answered.of_suffix h ha hw
  · rw [hr]; rfl
  · exact absurd hn h.1
  · exact absurd hn h.2

theorem delay_neverHangs (n : Nat) (h : NeverHangs true s) : (delay n s).Holds NeverHangs := by
  rcases delay_ends n s with ⟨_, hr, hw⟩ | ⟨_, -, hn⟩
  · rw [hr]; exact State.Answered.of_suffix h (List.suffix_refl _) hw
  · exact absurd hn h.2

theorem stable_neverHangs : Stable i NeverHangs where
  write _ _ h hw := by cases hw <;> exact h
  reject _ _ _ _ _ := rfl
  transfer ws c p _ _ h := transfer_neverHangs ws c p h
  cfgIdle p _ h := cfgIdleProc_neverHangs p h
  delay n _ h := delay_neverHangs n h

/-- Settles O56: everything a command is made of keeps the answers to come answered or closes the command. -/
theorem answeredCommandsEnd : Obligations.AnsweredCommandsEnd := by
  intro i s t ha hw h
  have hP : (body i s.accept).Holds NeverHangs := stable_neverHangs.body ⟨ha, hw⟩
  rw [eq_finish_body_of_exec h]
  exact hP.finish (fun _ _ => rfl) fun _ ht => ht

end Sys2Proof.Machine
end
